-- ==== Sys2Proof/Word.lean ====
section
/-! DEFINITION. The widths of the block: 48-bit command words, 32-bit registers and delay words,
8-bit register indices (30_encoding.md R58, 10_state.md R12, 20_memory.md R40). -/

namespace Sys2Proof

/-- One byte of a serialised command word (20_memory.md R43). -/
abbrev Byte := BitVec 8

/-- A 32-bit register, response or write-data word (10_state.md R12, 30_encoding.md R61). -/
abbrev Word := BitVec 32

/-- A binary32 pattern: the hardware's NUM (40_numerics.md R75). -/
abbrev F32 := BitVec 32

/-- A register index (30_encoding.md R58, field `reg`). -/
abbrev RegIdx := BitVec 8

/-- A command word (30_encoding.md R58). -/
abbrev CmdWord := BitVec 48

end Sys2Proof
end

