-- ==== Sys2Proof/Syntax.lean ====
section
/-! DEFINITION. The seven commands of the opcode map (30_encoding.md R60), one constructor per row of
spec/opcode_table.json, and the three fields of a command word (R58). -/

namespace Sys2Proof

/-- A command. `reg` is a register index used as it stands and `data` is 32 raw bits
(30_encoding.md R59). -/
inductive Instr
  /-- NOP, 47_host_access.md R170. -/
  | nop
  /-- WR reg, data, 47_host_access.md R171. -/
  | wr (reg : RegIdx) (data : Word)
  /-- RD reg, 47_host_access.md R174. -/
  | rd (reg : RegIdx)
  /-- STEP, 46_tape_head_step.md R155. -/
  | step
  /-- ROUTE, 45_feedback_router.md R145. -/
  | route
  /-- TICK, 46_tape_head_step.md R165. -/
  | tick
  /-- INIT, 47_host_access.md R176. -/
  | init
deriving DecidableEq, Repr

/-- The fields of a command word (30_encoding.md R58). -/
structure CommandFields where
  /-- Bits 47:40. -/
  op : BitVec 8
  /-- Bits 39:32. -/
  reg : RegIdx
  /-- Bits 31:0. -/
  data : Word
deriving DecidableEq, Repr

/-- Why a command word is illegal: the three cases of 30_encoding.md R66. -/
inductive IllegalWord
  /-- R66 (a): `op` is 0x07 to 0xFF. -/
  | undefinedOpcode
  /-- R66 (b): a command of format Z whose `reg` or `data` is not zero. -/
  | operandNotZero
  /-- R66 (c): RD whose `data` is not zero. -/
  | readDataNotZero
deriving DecidableEq, Repr

end Sys2Proof
end

