-- ==== Sys2Proof/WellFormed.lean ====
section
/-! DEFINITION. Which field values are a legal command (30_encoding.md R58, R60, R66), check by check,
and the well-formedness of a command. The operand types of `Instr` are as wide as the fields, so the
encoding admits every value of every operand: the checks bite on raw fields. -/

namespace Sys2Proof

/-- R66 (a): the opcode is one of the seven of 30_encoding.md R60. -/
def CommandFields.opcodeDefined (f : CommandFields) : Bool :=
  f.op.toNat ≤ 6

/-- R66 (b): in format Z (NOP, STEP, ROUTE, TICK, INIT) `reg` and `data` are zero. -/
def CommandFields.formatZOperandsZero (f : CommandFields) : Bool :=
  f.op = 0x01#8 || f.op = 0x02#8 || (f.reg = 0#8 && f.data = 0#32)

/-- R66 (c): in format R (RD) `data` is zero. -/
def CommandFields.formatRDataZero (f : CommandFields) : Bool :=
  f.op != 0x02#8 || f.data = 0#32

/-- The fields form a legal command word (30_encoding.md R66). -/
def CommandFields.legal (f : CommandFields) : Bool :=
  f.opcodeDefined && f.formatZOperandsZero && f.formatRDataZero

/-- The field values of a command, by the format table of 30_encoding.md R58 and the opcodes of R60. -/
def Instr.fields : Instr → CommandFields
  | .nop => { op := 0x00#8, reg := 0#8, data := 0#32 }
  | .wr reg data => { op := 0x01#8, reg := reg, data := data }
  | .rd reg => { op := 0x02#8, reg := reg, data := 0#32 }
  | .step => { op := 0x03#8, reg := 0#8, data := 0#32 }
  | .route => { op := 0x04#8, reg := 0#8, data := 0#32 }
  | .tick => { op := 0x05#8, reg := 0#8, data := 0#32 }
  | .init => { op := 0x06#8, reg := 0#8, data := 0#32 }

/-- A command is well formed when its fields are a legal command word. -/
def WellFormed (i : Instr) : Bool :=
  i.fields.legal

end Sys2Proof
end

