-- ==== Sys2Proof/Decode.lean ====
section
/-! DEFINITION. The decoder of 30_encoding.md R68, total on every 48-bit word and on every list of
bytes, rejecting by name; the encoder, from the same tables (R58, R60); the rows of the opcode map
(R60) as data; the serialisation of 20_memory.md R43. -/

namespace Sys2Proof

/-- The three fields of a command word (30_encoding.md R58). -/
def splitWord (c : CmdWord) : CommandFields :=
  { op := c.extractLsb' 40 8, reg := c.extractLsb' 32 8, data := c.extractLsb' 0 32 }

/-- Why a word that no row matches is illegal, by the cases (a), (b), (c) of 30_encoding.md R66. -/
def illegalReason (f : CommandFields) : IllegalWord :=
  if 0x07 ≤ f.op.toNat then .undefinedOpcode
  else if f.op = 0x02#8 then .readDataNotZero
  else .operandNotZero

/-- The decoder of 30_encoding.md R68, in the order that rule writes its tests. -/
def decodeFields (f : CommandFields) : Except IllegalWord Instr :=
  if f.op = 0x01#8 then .ok (.wr f.reg f.data)
  else if f.op = 0x02#8 ∧ f.data = 0#32 then .ok (.rd f.reg)
  else if f.op = 0x00#8 ∧ f.reg = 0#8 ∧ f.data = 0#32 then .ok .nop
  else if f.op = 0x03#8 ∧ f.reg = 0#8 ∧ f.data = 0#32 then .ok .step
  else if f.op = 0x04#8 ∧ f.reg = 0#8 ∧ f.data = 0#32 then .ok .route
  else if f.op = 0x05#8 ∧ f.reg = 0#8 ∧ f.data = 0#32 then .ok .tick
  else if f.op = 0x06#8 ∧ f.reg = 0#8 ∧ f.data = 0#32 then .ok .init
  else .error (illegalReason f)

/-- Decoding of a command word (30_encoding.md R68). -/
def decode (c : CmdWord) : Except IllegalWord Instr :=
  decodeFields (splitWord c)

/-- `{op, reg, data}` (30_encoding.md R58). -/
def joinFields (op : BitVec 8) (reg : RegIdx) (data : Word) : CmdWord :=
  op ++ reg ++ data

/-- The word of a command, from the opcode column of 30_encoding.md R60. -/
def encode : Instr → CmdWord
  | .nop => 0x000000000000#48
  | .wr reg data => joinFields 0x01#8 reg data
  | .rd reg => joinFields 0x02#8 reg 0#32
  | .step => 0x030000000000#48
  | .route => 0x040000000000#48
  | .tick => 0x050000000000#48
  | .init => 0x060000000000#48

/-- A row of the opcode map: a word `c` is a command of the row exactly when
`(c AND mask) == match` (30_encoding.md R60). -/
structure OpcodeRow where
  mnemonic : String
  pattern : CmdWord
  mask : CmdWord
deriving DecidableEq, Repr

/-- The test of a row (30_encoding.md R60). -/
def OpcodeRow.accepts (r : OpcodeRow) (c : CmdWord) : Bool :=
  c &&& r.mask = r.pattern

/-- The seven rows of 30_encoding.md R60, in the table's order. -/
def opcodeRows : List OpcodeRow :=
  [ { mnemonic := "NOP", pattern := 0x000000000000#48, mask := 0xFFFFFFFFFFFF#48 },
    { mnemonic := "WR", pattern := 0x010000000000#48, mask := 0xFF0000000000#48 },
    { mnemonic := "RD", pattern := 0x020000000000#48, mask := 0xFF00FFFFFFFF#48 },
    { mnemonic := "STEP", pattern := 0x030000000000#48, mask := 0xFFFFFFFFFFFF#48 },
    { mnemonic := "ROUTE", pattern := 0x040000000000#48, mask := 0xFFFFFFFFFFFF#48 },
    { mnemonic := "TICK", pattern := 0x050000000000#48, mask := 0xFFFFFFFFFFFF#48 },
    { mnemonic := "INIT", pattern := 0x060000000000#48, mask := 0xFFFFFFFFFFFF#48 } ]

/-- The row's mnemonic of a command (30_encoding.md R60). -/
def mnemonicOf : Instr → String
  | .nop => "NOP"
  | .wr _ _ => "WR"
  | .rd _ => "RD"
  | .step => "STEP"
  | .route => "ROUTE"
  | .tick => "TICK"
  | .init => "INIT"

/-- A command word serialised: six bytes, the least significant first (20_memory.md R43). -/
def bytesOfWord (c : CmdWord) : List Byte :=
  [c.extractLsb' 0 8, c.extractLsb' 8 8, c.extractLsb' 16 8,
   c.extractLsb' 24 8, c.extractLsb' 32 8, c.extractLsb' 40 8]

/-- The first command word of a list of bytes and the bytes after it (20_memory.md R43); none when
fewer than six bytes are left. -/
def wordOfBytes : List Byte → Option (CmdWord × List Byte)
  | b0 :: b1 :: b2 :: b3 :: b4 :: b5 :: rest => some (b5 ++ b4 ++ b3 ++ b2 ++ b1 ++ b0, rest)
  | _ => none

/-- A response word serialised: four bytes, the least significant first (20_memory.md R43). -/
def bytesOfResponse (w : Word) : List Byte :=
  [w.extractLsb' 0 8, w.extractLsb' 8 8, w.extractLsb' 16 8, w.extractLsb' 24 8]

/-- The first response word of a list of bytes and the bytes after it (20_memory.md R43); none when fewer
than four bytes are left. -/
def responseOfBytes : List Byte → Option (Word × List Byte)
  | b0 :: b1 :: b2 :: b3 :: rest => some (b3 ++ b2 ++ b1 ++ b0, rest)
  | _ => none

/-- Why a list of bytes does not begin with a legal command. -/
inductive ByteDecodeError
  /-- Fewer than six bytes: every command is one 48-bit word (30_encoding.md R58). -/
  | truncated
  /-- Six bytes that are an illegal word (30_encoding.md R66). -/
  | illegal (why : IllegalWord)
deriving DecidableEq, Repr

/-- Decoding of serialised command words: the first command and the bytes after it. -/
def decodeBytes (bs : List Byte) : Except ByteDecodeError (Instr × List Byte) :=
  match wordOfBytes bs with
  | none => .error .truncated
  | some (c, rest) =>
    match decode c with
    | .ok i => .ok (i, rest)
    | .error why => .error (.illegal why)

/-- The command the decoder reads from the low `nbits` bits of `w`, numbered as
spec/opcode_table.json numbers them; the bits above are zero. -/
def decodeTableWord (nbits w : Nat) : Option Instr :=
  match decode (BitVec.ofNat 48 (w % 2 ^ nbits)) with
  | .ok i => some i
  | .error _ => none

end Sys2Proof
end

