-- ==== Sys2Proof/Config.lean ====
section
/-! DEFINITION. What an implementation fixes: the OPEN parameters FS, N and K_SLEW of 00_scope.md R6
as a plain record, the check of their constraints, and the one free value of the spec, the bit
pattern of a NaN that a primitive returns (40_numerics.md R79, 93_implementation_defined.md U2). -/

namespace Sys2Proof

/-- The parameters the spec leaves OPEN (00_scope.md R6, 92_eei_decisions.md, last table). FS and
K_SLEW are exact positive rationals; the hardware holds the binary32 nearest to them (40_numerics.md
R87). Log entries 1 and 12. -/
structure Config where
  /-- Numerator of FS, the sample rate in Hz. -/
  fsNum : Nat
  /-- Denominator of FS. -/
  fsDen : Nat
  /-- N, the capacity of the delay memory in words. -/
  n : Nat
  /-- Numerator of K_SLEW, the slew coefficient. -/
  kSlewNum : Nat
  /-- Denominator of K_SLEW. -/
  kSlewDen : Nat
deriving DecidableEq, Repr

/-- The defaults of 00_scope.md R6, which the vectors of 95_test_vectors.md use. DESIGN CHOICE, unsafe
if a statement leaned on them: log entry 1. -/
def Config.default : Config :=
  { fsNum := 48000, fsDen := 1, n := 16, kSlewNum := 1, kSlewDen := 4096 }

/-- The constraints of 00_scope.md R6: FS positive, 8 <= N <= 2^24, 0 < K_SLEW < 1. A configuration
outside them is refused (93_implementation_defined.md U6, U7). -/
def Config.legal (c : Config) : Bool :=
  0 < c.fsNum && 0 < c.fsDen && 8 ≤ c.n && c.n ≤ 16777216 &&
    0 < c.kSlewNum && c.kSlewNum < c.kSlewDen

/-- The four primitives that may have to produce a NaN (40_numerics.md R79). -/
inductive PrimOp
  | add
  | sub
  | mul
  | div
deriving DecidableEq, Repr

/-- The free value of the spec: sign and low 22 fraction bits of the quiet NaN that a primitive
returns, for the draw with the given number, the primitive and its operands. It has no body: nothing
can be proved of its value (40_numerics.md R79: "any quiet NaN (a draw)"). Log entry 2, safe. -/
opaque Config.nanDraw : Nat → PrimOp → F32 → F32 → BitVec 23

end Sys2Proof
end

