-- ==== Sys2Proof/Machine/Numerics.lean ====
section
/-! DEFINITION. The abstract number type NUM: the primitives through which every rule uses it
(40_numerics.md R76). The pseudocode of files 41 to 46 is written once over this record. The hardware
is its binary32 instantiation (Float32.lean), the idealisation REAL its rational one (RealNum.lean). -/

namespace Sys2Proof.Machine

/-- The primitives of 40_numerics.md R76 over a type of numbers. -/
structure Numerics (α : Type) where
  /-- R78. -/
  fadd : α → α → α
  /-- R78. -/
  fsub : α → α → α
  /-- R78. -/
  fmul : α → α → α
  /-- R78. -/
  fdiv : α → α → α
  /-- R78. -/
  fneg : α → α
  /-- `a < b`, R80. `a > b` is `lt b a`. -/
  lt : α → α → Bool
  /-- `a <= b`, R80. `a >= b` is `le b a`. -/
  le : α → α → Bool
  /-- `a == b`, R80. -/
  eq : α → α → Bool
  /-- R81. -/
  finite : α → Bool
  /-- R82. -/
  floorNat : α → Nat
  /-- R82. -/
  ofNat : Nat → α
  /-- R83. -/
  frac24 : Nat → α
  /-- The constant nearest to the fraction of two naturals (00_scope.md R6, 40_numerics.md R87). -/
  lit : Nat → Nat → α

/-- `+0.0`. -/
def zero {α : Type} (O : Numerics α) : α := O.lit 0 1

/-- `clampN` of 00_scope.md R8: below the range, and NaN, to the lower bound. -/
def clampN {α : Type} (O : Numerics α) (v lo hi : α) : α :=
  if !(O.le lo v) then lo
  else if O.lt hi v then hi
  else v

end Sys2Proof.Machine
end

