-- ==== Sys2Proof/Machine/Constants.lean ====
section
/-! DEFINITION. The named constants of 00_scope.md R6 and the literals of the pseudocode, over any
number type (40_numerics.md R77, R87), and what is derived from them and the configuration. -/

namespace Sys2Proof.Machine

variable {α : Type}

/-- FS (00_scope.md R6). -/
def sampleRate (O : Numerics α) (c : Config) : α := O.lit c.fsNum c.fsDen

/-- K_SLEW (R6). -/
def kSlew (O : Numerics α) (c : Config) : α := O.lit c.kSlewNum c.kSlewDen

/-- D_LO (R6). -/
def dLo (O : Numerics α) : α := O.lit 2 1

/-- D_HI = of_nat(N - 2) (R6, 40_numerics.md R87). -/
def dHi (O : Numerics α) (c : Config) : α := O.ofNat (c.n - 2)

/-- D_RESET = of_nat(floor(N / 2)) (R6, 40_numerics.md R87). -/
def dReset (O : Numerics α) (c : Config) : α := O.ofNat (c.n / 2)

/-- DRIVE (R6): 1.3. -/
def drive (O : Numerics α) : α := O.lit 13 10

/-- SAT_EDGE (R6): 3. -/
def satEdge (O : Numerics α) : α := O.lit 3 1

/-- HP_HZ (R6): 147. -/
def hpHz (O : Numerics α) : α := O.lit 147 1

/-- K159 (R6): 0.159. -/
def k159 (O : Numerics α) : α := O.lit 159 1000

/-- F_MAX (R6): 0.497. -/
def fMax (O : Numerics α) : α := O.lit 497 1000

/-- HZ_MAX = fmul(F_MAX, FS) (R6, 40_numerics.md R87). -/
def hzMax (O : Numerics α) (c : Config) : α := O.fmul (fMax O) (sampleRate O c)

/-- DC_R (R6): 0.995. -/
def dcR (O : Numerics α) : α := O.lit 995 1000

/-- FB_MAX (R6): 1.2. -/
def fbMax (O : Numerics α) : α := O.lit 12 10

/-- FREEZE_CORR (R6): 0.85. -/
def freezeCorr (O : Numerics α) : α := O.lit 85 100

/-- FLUT_MAX (R6): 60. -/
def flutMax (O : Numerics α) : α := O.lit 60 1

/-- floor(RATE * 2^32 / FS + 1/2) as a u32, for a rate given as a fraction (R6, R7). -/
def incReset (rateNum rateDen : Nat) (c : Config) : Word :=
  BitVec.ofNat 32
    ((2 * rateNum * 2 ^ 32 * c.fsDen + rateDen * c.fsNum) / (2 * rateDen * c.fsNum))

/-- INC_A_RESET, from RATE_A = 0.4 Hz (R6). -/
def incAReset (c : Config) : Word := incReset 4 10 c

/-- INC_B_RESET, from RATE_B = 3.5 Hz (R6). -/
def incBReset (c : Config) : Word := incReset 35 10 c

/-- ID (10_state.md R32). -/
def idWord : Word := 0x46444901#32

end Sys2Proof.Machine
end

