-- ==== Sys2Proof/Machine/Float32.lean ====
section
/-! DEFINITION. IEEE 754 binary32 as 40_numerics.md R75 and R78 to R87 give it. A pattern that is not a
NaN denotes a whole number of units of 2^-149 (the smallest positive value); sums, products and
quotients are formed exactly on these whole numbers and rounded once. -/

namespace Sys2Proof.Machine

/-- The sign, bit 31 (40_numerics.md R75). -/
def f32Sign (a : F32) : Bool := 2147483648 ≤ a.toNat

/-- The biased exponent, bits 30:23 (R75). -/
def f32Exponent (a : F32) : Nat := a.toNat / 8388608 % 256

/-- The fraction, bits 22:0 (R75). -/
def f32Fraction (a : F32) : Nat := a.toNat % 8388608

/-- e = 255 and m not 0 (R75). -/
def f32IsNaN (a : F32) : Bool := f32Exponent a = 255 && f32Fraction a ≠ 0

/-- e = 255 and m = 0 (R75). -/
def f32IsInf (a : F32) : Bool := f32Exponent a = 255 && f32Fraction a = 0

/-- `finite` of 40_numerics.md R81: e is not 255. -/
def f32Finite (a : F32) : Bool := f32Exponent a ≠ 255

/-- Either zero (R75). -/
def f32IsZero (a : F32) : Bool := f32Exponent a = 0 && f32Fraction a = 0

/-- The magnitude a pattern denotes, in units of 2^-149 (R75): the fraction of a subnormal, else
2^23 + m scaled by the exponent. On an infinity it gives 2^277 units, above every finite value, which
is how R80 orders the infinities. -/
def f32Magnitude (a : F32) : Nat :=
  if f32Exponent a = 0 then f32Fraction a
  else (8388608 + f32Fraction a) * 2 ^ (f32Exponent a - 1)

/-- The signed value of a pattern that is not a NaN, in units of 2^-149 (R75, R80). -/
def f32Units (a : F32) : Int :=
  if f32Sign a then -(f32Magnitude a : Int) else (f32Magnitude a : Int)

/-- A pattern from its sign and its low 31 bits. -/
def f32Pack (negative : Bool) (low : Nat) : F32 :=
  BitVec.ofNat 32 ((if negative then 2147483648 else 0) + low)

/-- The infinity of a sign. -/
def f32Inf (negative : Bool) : F32 := f32Pack negative 0x7F800000

/-- Round half to even of a quotient of naturals (R78). -/
def roundHalfEven (p d : Nat) : Nat :=
  let q := p / d
  let r := p % d
  if d < 2 * r || (2 * r = d && q % 2 = 1) then q + 1 else q

/-- The low 31 bits of the binary32 nearest to `p / d` units of 2^-149, ties to even (R78, R85): the
significand is rounded at the place the binade gives it, a carry moves into the exponent field, and
what passes the largest finite value becomes the infinity's pattern. -/
def roundUnits (p d : Nat) : Nat :=
  let top := Nat.log2 (p / d)
  if 277 ≤ top then 0x7F800000
  else
    let shift := top - 23
    min (shift * 8388608 + roundHalfEven p (d * 2 ^ shift)) 0x7F800000

/-- The quiet NaN with the given sign (its top bit) and low fraction bits (R75, R79). -/
def quietNaN (v : BitVec 23) : F32 :=
  f32Pack (4194304 ≤ v.toNat) (0x7FC00000 + v.toNat % 4194304)

/-- The NaN of draw `k` for a primitive and its operands: any quiet NaN (R79). -/
def drawNaN (k : Nat) (op : PrimOp) (a b : F32) : F32 :=
  quietNaN (Config.nanDraw k op a b)

/-- `fneg` of R78: flips bit 31 of every operand. -/
def f32Neg (a : F32) : F32 := f32Pack (!f32Sign a) (a.toNat % 2147483648)

/-- The exact sum of two finite operands, rounded once; an exact zero is -0.0 only when both operands
are negative (R78, R79). -/
def f32AddFinite (a b : F32) : F32 :=
  let s := f32Units a + f32Units b
  if s = 0 then f32Pack (f32Sign a && f32Sign b) 0
  else f32Pack (s < 0) (roundUnits s.natAbs 1)

/-- `a + b` for operands that are not NaN, but for opposite infinities, where there is no number
(R78, R79). -/
def f32Sum (a b : F32) : Option F32 :=
  if f32IsInf a then
    if f32IsInf b && f32Sign a != f32Sign b then none else some a
  else if f32IsInf b then some b
  else some (f32AddFinite a b)

/-- The result of a primitive in draw `k`: a drawn NaN where there is no number or an operand is a
NaN (R79). -/
def orNaN (k : Nat) (op : PrimOp) (a b : F32) (r : Option F32) : F32 :=
  if f32IsNaN a || f32IsNaN b then drawNaN k op a b
  else match r with
    | some v => v
    | none => drawNaN k op a b

/-- `fadd` (R78, R79). -/
def f32Add (k : Nat) (a b : F32) : F32 :=
  orNaN k .add a b (f32Sum a b)

/-- `fsub` (R78, R79): the sum with the negated second operand. DEDUCED for the signs of its zeros:
log entry 11. -/
def f32Sub (k : Nat) (a b : F32) : F32 :=
  orNaN k .sub a b (f32Sum a (f32Neg b))

/-- `a * b` for operands that are not NaN; no number for 0 times infinity (R78, R79). -/
def f32Product (a b : F32) : Option F32 :=
  let negative := f32Sign a != f32Sign b
  if f32IsInf a || f32IsInf b then
    if f32IsZero a || f32IsZero b then none else some (f32Inf negative)
  else some (f32Pack negative (roundUnits (f32Magnitude a * f32Magnitude b) (2 ^ 149)))

/-- `fmul` (R78, R79). -/
def f32Mul (k : Nat) (a b : F32) : F32 :=
  orNaN k .mul a b (f32Product a b)

/-- `a / b` for operands that are not NaN; no number for 0 / 0 and for infinity / infinity
(R78, R79). -/
def f32Quotient (a b : F32) : Option F32 :=
  let negative := f32Sign a != f32Sign b
  if f32IsInf a then
    if f32IsInf b then none else some (f32Inf negative)
  else if f32IsInf b then some (f32Pack negative 0)
  else if f32IsZero b then
    if f32IsZero a then none else some (f32Inf negative)
  else some (f32Pack negative (roundUnits (f32Magnitude a * 2 ^ 149) (f32Magnitude b)))

/-- `fdiv` (R78, R79). -/
def f32Div (k : Nat) (a b : F32) : F32 :=
  orNaN k .div a b (f32Quotient a b)

/-- Neither operand is a NaN: the case in which a comparison can be true (R80). -/
def f32Ordered (a b : F32) : Bool := !f32IsNaN a && !f32IsNaN b

/-- `a < b` (R80). -/
def f32Lt (a b : F32) : Bool := f32Ordered a b && f32Units a < f32Units b

/-- `a <= b` (R80). -/
def f32Le (a b : F32) : Bool := f32Ordered a b && f32Units a ≤ f32Units b

/-- `a == b` (R80). -/
def f32Eq (a b : F32) : Bool := f32Ordered a b && f32Units a = f32Units b

/-- `floor_nat` (R82). Outside what R82 defines it is the model's choice, unreachable: 0 for a negative
value, a NaN and an infinity, as 93_implementation_defined.md U19 allows, and the exact floor of a finite
value however large. DESIGN CHOICE, log entry 9. -/
def f32FloorNat (a : F32) : Nat :=
  if f32Finite a && !f32Sign a then f32Magnitude a / 2 ^ 149 else 0

/-- The binary32 nearest to `p / q` (R87); also `of_nat` and `frac24`, which are exact on their
domains (R82, R83). `of_nat` of a number above 2^24, which R82 does not define and no rule reaches,
rounds to nearest even: DESIGN CHOICE, log entry 9. -/
def f32Lit (p q : Nat) : F32 :=
  f32Pack false (roundUnits (p * 2 ^ 149) q)

/-- The hardware's NUM in draw `k` (40_numerics.md R75 to R87). The draw number reaches only the bit
pattern of a NaN. -/
def f32Num (k : Nat) : Numerics F32 :=
  { fadd := f32Add k
    fsub := f32Sub k
    fmul := f32Mul k
    fdiv := f32Div k
    fneg := f32Neg
    lt := f32Lt
    le := f32Le
    eq := f32Eq
    finite := f32Finite
    floorNat := f32FloorNat
    ofNat := fun m => f32Lit m 1
    frac24 := fun m => f32Lit m 16777216
    lit := f32Lit }

/-- `bits_to_num`: in the hardware the identity on 32 bits (R84). -/
def bitsToNum (b : Word) : F32 := b

/-- `num_to_bits`: in the hardware the identity on 32 bits (R84). -/
def numToBits (v : F32) : Word := v

end Sys2Proof.Machine
end

