-- ==== Sys2Proof/Machine/State.lean ====
section
/-! DEFINITION. The state of the block (10_state.md R10, R12, R33), the reasons the model stops, and the
state right after reset (10_state.md R35, 70_reset_and_hazards.md R205). -/

namespace Sys2Proof.Machine

/-- The register MODE (10_state.md R23): one of three values, mutually exclusive by construction. -/
inductive Mode
  /-- 0. -/
  | forward
  /-- 1. -/
  | reverse
  /-- 2. -/
  | freeze
deriving DecidableEq, Repr

/-- The delay memory DL (10_state.md R33, 20_memory.md R40): pairs of a word address and the word there,
addresses strictly rising, no word equal to +0.0. An address that is not listed holds +0.0 (20_memory.md
R46). Log entry 7. -/
abbrev Memory (α : Type) := List (Nat × α)

/-- The spec's state over a number type: twenty-one registers and DL (10_state.md R10, R12). -/
structure BlockState (α : Type) where
  /-- X_IN, 0x00 (10_state.md R16). -/
  xIn : α
  /-- REV_IN, 0x01 (R17). -/
  revIn : α
  /-- FB, 0x02 (R18). -/
  fb : α
  /-- DELAY_TARGET, 0x03 (R19). -/
  delayTarget : α
  /-- TONE_HZ, 0x04 (R20). -/
  toneHz : α
  /-- FB_GAIN, 0x05 (R21). -/
  fbGain : α
  /-- FLUT_DEPTH, 0x06 (R22). -/
  flutDepth : α
  /-- MODE, 0x07 (R23). -/
  mode : Mode
  /-- FILT_CFG, 0x08 (R24): bit 0 A_HP, bit 1 B_HP. -/
  filtCfg : BitVec 2
  /-- LFO_A_INC, 0x09 (R25). -/
  lfoAInc : Word
  /-- LFO_B_INC, 0x0A (R25). -/
  lfoBInc : Word
  /-- PH_A, 0x0B (R26). -/
  phA : Word
  /-- PH_B, 0x0C (R26). -/
  phB : Word
  /-- Y_OUT, 0x10 (R27). -/
  yOut : α
  /-- STATUS, 0x11 (R28): bit 0 NONFINITE, bit 1 ILLEGAL, bit 2 BADREG. -/
  status : BitVec 3
  /-- CUR_DELAY, 0x12 (R29). -/
  curDelay : α
  /-- WR_IDX, 0x13 (R30). -/
  wrIdx : Word
  /-- TA_Y0, 0x14 (R31). -/
  taY0 : α
  /-- TB_Y0, 0x15 (R31). -/
  tbY0 : α
  /-- DC_X1, 0x16 (R31). -/
  dcX1 : α
  /-- DC_Y1, 0x17 (R31). -/
  dcY1 : α
  /-- DL (R33). -/
  dl : Memory α
deriving DecidableEq, Repr

/-- What the host does to the block (10_state.md R38, 30_encoding.md R55). -/
inductive PortEvent
  /-- The host presents a command word and the block accepts it. -/
  | command (c : CmdWord)
  /-- The host asserts `rst` (70_reset_and_hazards.md R205). -/
  | reset
deriving DecidableEq, Repr

/-- The machine: the spec's state of the hardware (NUM is binary32), and the model's own fields. -/
structure State extends BlockState F32 where
  /-- The parameters, the same in every state of a run (10_state.md R37). Log entry 1. -/
  cfg : Config
  /-- The number of draws of the free value made so far. The model's own. Log entries 2 and 3. -/
  draws : Nat
  /-- What the host has presented and the block has not yet taken, oldest first (30_encoding.md R55,
  R56). The model's own. Log entry 4. -/
  port : List PortEvent
  /-- The response the last step put on `rsp`, none when `rsp_valid` stayed 0 (30_encoding.md R55,
  R61). The model's own. Log entry 6. -/
  rsp : Option Word
deriving DecidableEq, Repr

/-- Why the machine stops with a fault. The spec has no fault (60_exceptions.md R185); the one below
guards an access to a word DL does not have, in states that no run reaches. -/
inductive Fault
  /-- STEP and TICK raise it when WR_IDX is not below N, so that `dl_write` would write a word that does
  not exist (20_memory.md R40). No state of a run is so (10_state.md R36 (a)). Safe: log entry 8. -/
  | noSuchDelayWord (wrIdx : Word)
deriving DecidableEq, Repr

/-- Why the machine refuses. -/
inductive Refusal
  /-- An arm of exec whose command has no meaning yet; no arm is so. Safe. -/
  | notModelled (mnemonic : String)
  /-- Every step raises it when the configuration breaks a constraint of 00_scope.md R6: the treatment
  `refuse` of 93_implementation_defined.md U6 and U7. Safe: log entry 10. -/
  | configOutOfRange
deriving DecidableEq, Repr

/-- The reset values of 10_state.md R35, over any number type. -/
def BlockState.initial {α : Type} (O : Numerics α) (c : Config) : BlockState α :=
  { xIn := zero O
    revIn := zero O
    fb := zero O
    delayTarget := dReset O c
    toneHz := hzMax O c
    fbGain := zero O
    flutDepth := zero O
    mode := .forward
    filtCfg := 0b10#2
    lfoAInc := incAReset c
    lfoBInc := incBReset c
    phA := 0#32
    phB := 0#32
    yOut := zero O
    status := 0#3
    curDelay := dReset O c
    wrIdx := 0#32
    taY0 := zero O
    tbY0 := zero O
    dcX1 := zero O
    dcY1 := zero O
    dl := [] }

/-- The machine right after reset, built with the given parameters (10_state.md R35). -/
def State.resetWith (c : Config) : State :=
  { toBlockState := BlockState.initial (f32Num 0) c
    cfg := c
    draws := 0
    port := []
    rsp := none }

/-- The machine right after reset, built with the default parameters of 00_scope.md R6. -/
def State.reset : State := State.resetWith Config.default

end Sys2Proof.Machine
end

