-- ==== Sys2Proof/Machine/Flags.lean ====
section
/-! DEFINITION. The three sticky flags of STATUS and the conditions that set them (10_state.md R28,
60_exceptions.md R186, R188). The block has no other flag. -/

namespace Sys2Proof.Machine

/-- A flag of STATUS (10_state.md R28). -/
inductive StatusBit
  | nonfinite
  | illegal
  | badreg
deriving DecidableEq, Repr

/-- The bit of a flag (10_state.md R28). -/
def statusMask : StatusBit → BitVec 3
  | .nonfinite => 0b001#3
  | .illegal => 0b010#3
  | .badreg => 0b100#3

/-- `flag NAME` of 00_scope.md R7: the bit becomes 1, the others stay. -/
def raiseFlag (f : StatusBit) (status : BitVec 3) : BitVec 3 := status ||| statusMask f

/-- Whether a flag is set. -/
def flagIsSet (f : StatusBit) (status : BitVec 3) : Bool := status &&& statusMask f != 0#3

variable {α : Type}

/-- `flag NAME` on the spec's state, every register else staying. -/
def BlockState.raise (f : StatusBit) (b : BlockState α) : BlockState α :=
  { b with status := raiseFlag f b.status }

/-- STATUS.NONFINITE under a condition. -/
def raiseNonfiniteIf (bad : Bool) (b : BlockState α) : BlockState α :=
  if bad then b.raise .nonfinite else b

/-- The condition of STEP: the gated input, FB or the result is not finite (46_tape_head_step.md R163,
60_exceptions.md R188). -/
def stepNonfinite (O : Numerics α) (x fb y : α) : Bool :=
  !(O.finite x && O.finite fb && O.finite y)

/-- The condition of ROUTE: the source or the product is not finite (45_feedback_router.md R149,
60_exceptions.md R188). -/
def routeNonfinite (O : Numerics α) (src fb : α) : Bool :=
  !O.finite src || !O.finite fb

end Sys2Proof.Machine
end

