-- ==== Sys2Proof/Machine/Ops.lean ====
section
/-! DEFINITION. The shared operations: DL accesses, the response, the draws, setting a flag and the two
ways back to the reset state. The block takes no exception and returns from none (60_exceptions.md
R185): `takeIllegalWord` is what stands in the place of exception entry (30_encoding.md R66). -/

namespace Sys2Proof.Machine

variable {α : Type}

/-- A word of DL; one that is not listed holds +0.0 (20_memory.md R46). -/
def Memory.read (z : α) : Memory α → Nat → α
  | [], _ => z
  | (k, v) :: rest, a => if k = a then v else Memory.read z rest a

/-- Puts a word at its place in the rising list; +0.0 is not listed. -/
def Memory.write [DecidableEq α] (z : α) : Memory α → Nat → α → Memory α
  | [], a, v => if v = z then [] else [(a, v)]
  | (k, w) :: rest, a, v =>
    if a < k then if v = z then (k, w) :: rest else (a, v) :: (k, w) :: rest
    else if a = k then if v = z then rest else (a, v) :: rest
    else (k, w) :: Memory.write z rest a v

/-- The listed words have rising addresses from `low` on, below the capacity, and none is +0.0. -/
def Memory.wfFrom [DecidableEq α] (z : α) (capacity : Nat) : Nat → Memory α → Bool
  | _, [] => true
  | low, (k, v) :: rest =>
    low ≤ k && k < capacity && v ≠ z && Memory.wfFrom z capacity (k + 1) rest

/-- The canonical form of DL (20_memory.md R40, R46; log entry 7). -/
def Memory.wf [DecidableEq α] (z : α) (capacity : Nat) (m : Memory α) : Bool :=
  Memory.wfFrom z capacity 0 m

/-- `MemWrite(a, 1, v)` (00_scope.md R7): none when DL has no word `a` (20_memory.md R40). -/
def memWrite [DecidableEq α] (O : Numerics α) (c : Config) (m : Memory α) (a : Nat) (v : α) :
    Option (Memory α) :=
  if a < c.n then some (m.write (zero O) a v) else none

/-- `MemRead(a mod N, 1)` (00_scope.md R7): the address is a mathematical integer, reduced with the floor
convention (20_memory.md R44, R47; 40_numerics.md R89). -/
def memRead (O : Numerics α) (c : Config) (m : Memory α) (a : Int) : α :=
  m.read (zero O) (a % (c.n : Int)).toNat

/-- The number type of the constants built into the hardware (40_numerics.md R87). None of them is a
NaN, so its draw number reaches nothing. -/
def builtNum : Numerics F32 := f32Num 0

/-- The number types of the draws that a command makes: one number for each function of the pipeline
that may return a NaN, counted on from the state's. Log entry 2. -/
def drawsFrom (s : State) : Nat → Numerics F32 := fun j => f32Num (s.draws + j)

/-- Marks `k` draws as made. -/
def State.drew (s : State) (k : Nat) : State := { s with draws := s.draws + k }

/-- Replaces the spec's own state, the model's own fields staying. -/
def State.withBlock (s : State) (b : BlockState F32) : State := { s with toBlockState := b }

/-- Presents a response (30_encoding.md R61). -/
def State.respond (s : State) (w : Word) : State := { s with rsp := some w }

/-- Presents no response. -/
def State.silent (s : State) : State := { s with rsp := none }

/-- Takes the first event from the port. -/
def State.withPort (s : State) (events : List PortEvent) : State := { s with port := events }

/-- Sets a flag of STATUS (00_scope.md R7). -/
def State.flag (s : State) (f : StatusBit) : State := { s with status := raiseFlag f s.status }

/-- The answer to an illegal word (30_encoding.md R66, R61): STATUS.ILLEGAL, nothing else, response 0. -/
def takeIllegalWord (s : State) : State := (s.flag .illegal).respond 0#32

/-- Every register and every word of DL at its reset value (10_state.md R35): what `rst` and INIT do
(47_host_access.md R176). The parameters stay; so does the model's count of draws (log entry 3). -/
def State.initialised (s : State) : State := s.withBlock (BlockState.initial builtNum s.cfg)

/-- A cycle of `rst` (70_reset_and_hazards.md R205): the reset state, and no response. Log entry 5. -/
def State.afterReset (s : State) : State := s.initialised.silent

/-- Goes on from a next state; a fault or a refusal stays what it is. -/
def onNext (o : Host.Outcome State Fault Refusal) (f : State → State) :
    Host.Outcome State Fault Refusal :=
  match o with
  | .next s => .next (f s)
  | .fault r => .fault r
  | .refused r => .refused r

end Sys2Proof.Machine
end

