-- ==== Sys2Proof/Machine/Operands.lean ====
section
/-! DEFINITION. The operand forms: a register of the register map read as 32 bits, and written with its
legalisation (10_state.md R12 to R14, R19 to R24; 47_host_access.md R171 to R175). -/

namespace Sys2Proof.Machine

variable {α : Type}

/-- The 32 bits of MODE (10_state.md R23). -/
def modeWord : Mode → Word
  | .forward => 0#32
  | .reverse => 1#32
  | .freeze => 2#32

/-- The mode that data written to MODE names; none for an undefined value, all 32 bits compared
(47_host_access.md R173). -/
def modeOfWord (data : Word) : Option Mode :=
  if data = 0#32 then some .forward
  else if data = 1#32 then some .reverse
  else if data = 2#32 then some .freeze
  else none

/-- legal_DELAY_TARGET (10_state.md R19). -/
def legalDelayTarget (O : Numerics α) (c : Config) (v : α) : α := clampN O v (dLo O) (dHi O c)

/-- legal_TONE_HZ (10_state.md R20). -/
def legalToneHz (O : Numerics α) (c : Config) (v : α) : α := clampN O v (zero O) (hzMax O c)

/-- legal_FB_GAIN (10_state.md R21). -/
def legalFbGain (O : Numerics α) (v : α) : α := clampN O v (zero O) (fbMax O)

/-- legal_FLUT_DEPTH (10_state.md R22). -/
def legalFlutDepth (O : Numerics α) (v : α) : α := clampN O v (zero O) (flutMax O)

/-- legal_FILT_CFG (10_state.md R24): bits [31:2] of the data are ignored. -/
def legalFiltCfg (v : Word) : BitVec 2 := v.extractLsb' 0 2

/-- The 32 bits of a mapped register, none for an unmapped index (10_state.md R12, R13;
47_host_access.md R174); an F32 register through `num_to_bits` of the number type (10_state.md R15). -/
def readRegisterAs (toBits : α → Word) (b : BlockState α) (reg : RegIdx) : Option Word :=
  match reg.toNat with
  | 0x00 => some (toBits b.xIn)
  | 0x01 => some (toBits b.revIn)
  | 0x02 => some (toBits b.fb)
  | 0x03 => some (toBits b.delayTarget)
  | 0x04 => some (toBits b.toneHz)
  | 0x05 => some (toBits b.fbGain)
  | 0x06 => some (toBits b.flutDepth)
  | 0x07 => some (modeWord b.mode)
  | 0x08 => some (b.filtCfg.setWidth 32)
  | 0x09 => some b.lfoAInc
  | 0x0A => some b.lfoBInc
  | 0x0B => some b.phA
  | 0x0C => some b.phB
  | 0x10 => some (toBits b.yOut)
  | 0x11 => some (b.status.setWidth 32)
  | 0x12 => some (toBits b.curDelay)
  | 0x13 => some b.wrIdx
  | 0x14 => some (toBits b.taY0)
  | 0x15 => some (toBits b.tbY0)
  | 0x16 => some (toBits b.dcX1)
  | 0x17 => some (toBits b.dcY1)
  | 0x1F => some idWord
  | _ => none

/-- The register map of the hardware as RD answers it. -/
def readRegister (b : BlockState F32) (reg : RegIdx) : Option Word := readRegisterAs numToBits b reg

/-- A register after a WR of it; none where the WR writes no register and sets STATUS.BADREG: a
read-only or unmapped index, or an undefined MODE value (47_host_access.md R171 to R173). `v` is
`bits_to_num` of the data, which the registers of type F32 take (10_state.md R15). -/
def writeRegisterAs (O : Numerics α) (c : Config) (b : BlockState α) (reg : RegIdx) (data : Word)
    (v : α) : Option (BlockState α) :=
  match reg.toNat with
  | 0x00 => some { b with xIn := v }
  | 0x01 => some { b with revIn := v }
  | 0x02 => some { b with fb := v }
  | 0x03 => some { b with delayTarget := legalDelayTarget O c v }
  | 0x04 => some { b with toneHz := legalToneHz O c v }
  | 0x05 => some { b with fbGain := legalFbGain O v }
  | 0x06 => some { b with flutDepth := legalFlutDepth O v }
  | 0x07 => (modeOfWord data).map fun m => { b with mode := m }
  | 0x08 => some { b with filtCfg := legalFiltCfg data }
  | 0x09 => some { b with lfoAInc := data }
  | 0x0A => some { b with lfoBInc := data }
  | 0x0B => some { b with phA := data }
  | 0x0C => some { b with phB := data }
  | _ => none

/-- The register file of the hardware after a WR. -/
def writeRegister (c : Config) (b : BlockState F32) (reg : RegIdx) (data : Word) :
    Option (BlockState F32) :=
  writeRegisterAs builtNum c b reg data (bitsToNum data)

end Sys2Proof.Machine
end

