-- ==== Sys2Proof/Machine/HostAccess.lean ====
section
/-! DEFINITION. The host access commands NOP, WR, RD and INIT (47_host_access.md). -/

namespace Sys2Proof.Machine

/-- NOP (47_host_access.md R170): response 0, nothing else. -/
def execNop (s : State) : Host.Outcome State Fault Refusal :=
  .next (s.respond 0#32)

/-- WR (47_host_access.md R171 to R173): the register, or STATUS.BADREG; response 0. -/
def execWr (reg : RegIdx) (data : Word) (s : State) : Host.Outcome State Fault Refusal :=
  match writeRegister s.cfg s.toBlockState reg data with
  | some b => .next ((s.withBlock b).respond 0#32)
  | none => .next ((s.flag .badreg).respond 0#32)

/-- RD (47_host_access.md R174, R175): the register, or 0 and STATUS.BADREG. -/
def execRd (reg : RegIdx) (s : State) : Host.Outcome State Fault Refusal :=
  match readRegister s.toBlockState reg with
  | some w => .next (s.respond w)
  | none => .next ((s.flag .badreg).respond 0#32)

/-- INIT (47_host_access.md R176): every register and every word of DL at its reset value; response 0. -/
def execInit (s : State) : Host.Outcome State Fault Refusal :=
  .next (s.initialised.respond 0#32)

end Sys2Proof.Machine
end

