-- ==== Sys2Proof/Machine/DelayLine.lean ====
section
/-! DEFINITION. The delay line: write, slew and fractional Hermite read (41_delay_line.md). -/

namespace Sys2Proof.Machine

variable {α : Type}

/-- `(WR_IDX + 1) mod N` (41_delay_line.md R101, 40_numerics.md R89). -/
def advanceIndex (c : Config) (w : Word) : Word := BitVec.ofNat 32 ((w.toNat + 1) % c.n)

/-- `dl_write(s)` (R101): none when WR_IDX names no word of DL. -/
def dlWrite [DecidableEq α] (O : Numerics α) (c : Config) (b : BlockState α) (v : α) :
    Option (BlockState α) :=
  (memWrite O c b.dl b.wrIdx.toNat v).map fun m =>
    { b with dl := m, wrIdx := advanceIndex c b.wrIdx }

/-- The new CUR_DELAY of `dl_slew(tgt)` (R103). -/
def slew (O : Numerics α) (k cur tgt : α) : α :=
  let d := O.fsub tgt cur
  let nx := O.fadd cur (O.fmul k d)
  if O.le cur tgt then
    if O.lt tgt nx then tgt else nx
  else
    if O.lt nx tgt then tgt else nx

/-- `dl_slew(tgt)` (R103). -/
def dlSlew (O : Numerics α) (c : Config) (b : BlockState α) (tgt : α) : BlockState α :=
  { b with curDelay := slew O (kSlew O c) b.curDelay tgt }

/-- `hermite(xm1, x0, x1, x2, f)` (R106). -/
def hermite (O : Numerics α) (xm1 x0 x1 x2 f : α) : α :=
  let half := O.lit 1 2
  let c := O.fmul (O.fsub x1 xm1) half
  let v := O.fsub x0 x1
  let w := O.fadd c v
  let a := O.fadd (O.fadd w v) (O.fmul (O.fsub x2 x0) half)
  let b := O.fadd w a
  O.fadd (O.fmul (O.fadd (O.fmul (O.fsub (O.fmul a f) b) f) c) f) x0

/-- The word at an integer delay behind the write index (41_delay_line.md R104, R105). -/
def tap (O : Numerics α) (c : Config) (b : BlockState α) (delay : Int) : α :=
  memRead O c b.dl ((b.wrIdx.toNat : Int) - delay)

/-- `dl_read()` (R105), with the write index that `dl_write` left. -/
def dlRead (O : Numerics α) (c : Config) (b : BlockState α) : α :=
  let i := O.floorNat b.curDelay
  let f := O.fsub b.curDelay (O.ofNat i)
  hermite O (tap O c b ((i : Int) - 1)) (tap O c b (i : Int)) (tap O c b ((i : Int) + 1))
    (tap O c b ((i : Int) + 2)) f

end Sys2Proof.Machine
end

