-- ==== Sys2Proof/Machine/Flutter.lean ====
section
/-! DEFINITION. The flutter modulator: two low-frequency oscillators (44_flutter_modulator.md). -/

namespace Sys2Proof.Machine

variable {α : Type}

/-- `lfo_advance()` (44_flutter_modulator.md R135). -/
def lfoAdvance (b : BlockState α) : BlockState α :=
  { b with phA := b.phA + b.lfoAInc, phB := b.phB + b.lfoBInc }

/-- `wave_par(ph)` (R136). -/
def wavePar (O : Numerics α) (ph : Word) : α :=
  let q := O.frac24 (ph.extractLsb' 8 23).toNat
  let h := O.fmul (O.fmul (O.lit 16 1) q) (O.fsub (O.lit 1 2) q)
  if ph.getLsbD 31 then O.fneg h else h

/-- `wave_tri(ph)` (R137). -/
def waveTri (O : Numerics α) (ph : Word) : α :=
  let p := O.frac24 (ph.extractLsb' 8 24).toNat
  let t := O.fmul (O.lit 4 1) p
  if ph.extractLsb' 30 2 = 0b00#2 then t
  else if ph.extractLsb' 30 2 = 0b11#2 then O.fsub t (O.lit 4 1)
  else O.fsub (O.lit 2 1) t

/-- `flutter_mix(a, b)` (R138). -/
def flutterMix (O : Numerics α) (a b : α) : α := O.fdiv (O.fadd (O.fadd a a) b) (O.lit 3 1)

/-- The offset of the phases as they stand: the last lines of `flutter()` (R139). -/
def flutterOffset (O : Numerics α) (b : BlockState α) : α :=
  O.fmul b.flutDepth (flutterMix O (wavePar O b.phA) (waveTri O b.phB))

/-- `flutter()` (R139): the phases advance first. -/
def flutter (O : Numerics α) (b : BlockState α) : BlockState α × α :=
  let b' := lfoAdvance b
  (b', flutterOffset O b')

end Sys2Proof.Machine
end

