-- ==== Sys2Proof/Machine/Router.lean ====
section
/-! DEFINITION. The feedback router, the command ROUTE (45_feedback_router.md). -/

namespace Sys2Proof.Machine

variable {α : Type}

/-- The feedback source of a mode (45_feedback_router.md R146 to R148). -/
def routeSource (b : BlockState α) : α :=
  match b.mode with
  | .forward => b.yOut
  | .reverse => b.revIn
  | .freeze => b.yOut

/-- The loop gain of a mode (45_feedback_router.md R146 to R148). -/
def routeGain (O : Numerics α) (b : BlockState α) : α :=
  match b.mode with
  | .forward => b.fbGain
  | .reverse => b.fbGain
  | .freeze => freezeCorr O

/-- ROUTE without its response (R145). -/
def routeBlock (O : Numerics α) (b : BlockState α) : BlockState α :=
  let src := routeSource b
  let fb := O.fmul src (routeGain O b)
  raiseNonfiniteIf (routeNonfinite O src fb) { b with fb := fb }

/-- ROUTE on the machine, without its response: one draw. -/
def routeState (s : State) : State :=
  (s.withBlock (routeBlock (f32Num s.draws) s.toBlockState)).drew 1

/-- ROUTE (45_feedback_router.md R145): the response is FB as the command left it. -/
def execRoute (s : State) : Host.Outcome State Fault Refusal :=
  .next ((routeState s).respond (numToBits (routeState s).fb))

end Sys2Proof.Machine
end

