-- ==== Sys2Proof/Machine/Saturator.lean ====
section
/-! DEFINITION. The saturator and the soft limiter (43_saturator_limiter.md). Both are pure (R132). -/

namespace Sys2Proof.Machine

variable {α : Type}

/-- `sat(u)` (43_saturator_limiter.md R125). -/
def sat (O : Numerics α) (u : α) : α :=
  let one := O.lit 1 1
  if O.le (satEdge O) u then one
  else if O.le u (O.fneg (satEdge O)) then O.fneg one
  else
    let u2 := O.fmul u u
    let num := O.fmul u (O.fadd (O.lit 27 1) u2)
    let den := O.fadd (O.lit 27 1) (O.fmul (O.lit 9 1) u2)
    let q := O.fdiv num den
    if O.lt one q then one
    else if O.lt q (O.fneg one) then O.fneg one
    else q

/-- `lim(v)` (43_saturator_limiter.md R128). -/
def lim (O : Numerics α) (v : α) : α :=
  let one := O.lit 1 1
  let two := O.lit 2 1
  if O.lt one v then O.fsub two (O.fdiv one v)
  else if O.lt v (O.fneg one) then O.fsub (O.fneg two) (O.fdiv one v)
  else v

end Sys2Proof.Machine
end

