-- ==== Sys2Proof/Machine/ToneFilter.lean ====
section
/-! DEFINITION. The tone filter chain: the one-pole cascade and the DC blocker
(42_tone_filter_chain.md). -/

namespace Sys2Proof.Machine

variable {α : Type}

/-- `onepole(y0, g, x, hp)` (42_tone_filter_chain.md R115, R118): the new memory and the output. -/
def onepole (O : Numerics α) (y0 g x : α) (hp : Bool) : α × α :=
  let y0n := O.fadd y0 (O.fmul g (O.fsub x y0))
  (y0n, if hp then O.fsub y0n x else y0n)

/-- `coef(hz)` (R116). -/
def coef (O : Numerics α) (c : Config) (hz : α) : α :=
  let f := O.fdiv hz (sampleRate O c)
  O.fdiv f (O.fadd (k159 O) f)

/-- G_B = coef(HP_HZ) (00_scope.md R6, 40_numerics.md R87). -/
def gB (O : Numerics α) (c : Config) : α := coef O c (hpHz O)

/-- Stage A of `tone_cascade(r)` (R117): the low-pass or high-pass at TONE_HZ. -/
def toneStageA (O : Numerics α) (c : Config) (b : BlockState α) (r : α) : BlockState α × α :=
  let p := onepole O b.taY0 (coef O c b.toneHz) r (b.filtCfg.getLsbD 0)
  ({ b with taY0 := p.1 }, p.2)

/-- Stage B of `tone_cascade(r)` (R117): the low-pass or high-pass at HP_HZ. -/
def toneStageB (O : Numerics α) (c : Config) (b : BlockState α) (ta : α) : BlockState α × α :=
  let p := onepole O b.tbY0 (gB O c) ta (b.filtCfg.getLsbD 1)
  ({ b with tbY0 := p.1 }, p.2)

/-- `dc_block(x)` (R120). -/
def dcBlock (O : Numerics α) (b : BlockState α) (x : α) : BlockState α × α :=
  let y := O.fadd (O.fsub x b.dcX1) (O.fmul (dcR O) b.dcY1)
  ({ b with dcX1 := x, dcY1 := y }, y)

end Sys2Proof.Machine
end

