-- ==== Sys2Proof/Machine/TapeHead.lean ====
section
/-! DEFINITION. The tape-head pipeline, the commands STEP and TICK (46_tape_head_step.md). `O j` is the
number type of the j-th function of the pipeline; in the hardware it numbers the draw of a NaN. -/

namespace Sys2Proof.Machine

variable {α : Type}

/-- Stage 0, the target: `clampN(fadd(DELAY_TARGET, off), D_LO, D_HI)` (46_tape_head_step.md R157). -/
def stepTarget (O : Numerics α) (c : Config) (b : BlockState α) (off : α) : α :=
  clampN O (O.fadd b.delayTarget off) (dLo O) (dHi O c)

/-- Stage 1, the gated input (R158). -/
def gatedInput (O : Numerics α) (b : BlockState α) : α :=
  match b.mode with
  | .freeze => zero O
  | .forward => b.xIn
  | .reverse => b.xIn

/-- Stage 1, drive and saturation: the word that stage 2 writes (R159). -/
def drivenSample (O : Numerics α) (b : BlockState α) : α :=
  sat O (O.fmul (drive O) (O.fadd (gatedInput O b) b.fb))

/-- Stages 4 and 5 on the sample `r` that was read (R161, R162), and STATUS.NONFINITE (R163). -/
def conditionOutput (O : Nat → Numerics α) (c : Config) (b : BlockState α) (r : α) : BlockState α :=
  let a := toneStageA (O 4) c b r
  let t := toneStageB (O 5) c a.1 a.2
  let d := dcBlock (O 6) t.1 t.2
  let y := lim (O 7) d.2
  raiseNonfiniteIf (stepNonfinite (O 7) (gatedInput (O 7) b) b.fb y) { d.1 with yOut := y }

/-- STEP without its response (R155): none when WR_IDX names no word of DL. -/
def stepBlock [DecidableEq α] (O : Nat → Numerics α) (c : Config) (b : BlockState α) :
    Option (BlockState α) :=
  let f := flutter (O 0) b
  let tgt := stepTarget (O 0) c f.1 f.2
  (dlWrite (O 1) c f.1 (drivenSample (O 1) f.1)).map fun b2 =>
    let b3 := dlSlew (O 2) c b2 tgt
    conditionOutput O c b3 (dlRead (O 3) c b3)

/-- The draws one STEP makes. -/
def stepDraws : Nat := 8

/-- STEP on the machine, without its response (R155). -/
def stepState (s : State) : Host.Outcome State Fault Refusal :=
  match stepBlock (drawsFrom s) s.cfg s.toBlockState with
  | some b => .next ((s.withBlock b).drew stepDraws)
  | none => .fault (.noSuchDelayWord s.wrIdx)

/-- STEP (46_tape_head_step.md R155, R162): the response is Y_OUT as the command left it. -/
def execStep (s : State) : Host.Outcome State Fault Refusal :=
  onNext (stepState s) fun t => t.respond (numToBits t.yOut)

/-- TICK (46_tape_head_step.md R165): STEP, then ROUTE; the response is Y_OUT. -/
def execTick (s : State) : Host.Outcome State Fault Refusal :=
  onNext (stepState s) fun t => (routeState t).respond (numToBits t.yOut)

end Sys2Proof.Machine
end

