-- ==== Sys2Proof/Machine/Dispatch.lean ====
section
/-! DEFINITION. One arm per command (30_encoding.md R60, R68). -/

namespace Sys2Proof.Machine

/-- The meaning of a command (30_encoding.md R56). -/
def exec (i : Instr) (s : State) : Host.Outcome State Fault Refusal :=
  match i with
  | .nop => Sys2Proof.Machine.execNop s
  | .wr reg data => Sys2Proof.Machine.execWr reg data s
  | .rd reg => Sys2Proof.Machine.execRd reg s
  | .step => Sys2Proof.Machine.execStep s
  | .route => Sys2Proof.Machine.execRoute s
  | .tick => Sys2Proof.Machine.execTick s
  | .init => Sys2Proof.Machine.execInit s

end Sys2Proof.Machine
end

