-- ==== Sys2Proof/Machine/Port.lean ====
section
/-! DEFINITION. The ports of the block (30_encoding.md R55): the command channel, and the side-band
outputs driven from state (10_state.md R34). -/

namespace Sys2Proof.Machine

/-- An accepted command word (30_encoding.md R57, R66, R68): decoded and executed, or answered as
illegal. -/
def runCommand (c : CmdWord) (s : State) : Host.Outcome State Fault Refusal :=
  match decode c with
  | .ok i => exec i s
  | .error _ => .next (takeIllegalWord s)

/-- One event of the port on a state whose port no longer holds it (30_encoding.md R55,
70_reset_and_hazards.md R205). -/
def runEvent (e : PortEvent) (s : State) : Host.Outcome State Fault Refusal :=
  match e with
  | .command c => runCommand c s
  | .reset => .next s.afterReset

/-- A step of a legally configured block: the oldest event of the port, or, with none presented, an idle
step in which no state changes (10_state.md R38). Log entry 4. -/
def runPort (s : State) : Host.Outcome State Fault Refusal :=
  match s.port with
  | [] => .next s.silent
  | e :: rest => runEvent e (s.withPort rest)

/-- `y_out` (10_state.md R34). -/
def yOutPin (s : State) : Word := numToBits s.yOut

/-- `mode_reverse` (10_state.md R34): 1 when MODE = 1, else 0. -/
def modeReversePin (s : State) : BitVec 1 :=
  match s.mode with
  | .reverse => 1#1
  | .forward => 0#1
  | .freeze => 0#1

/-- `mode_freeze` (10_state.md R34): 1 when MODE = 2, else 0. -/
def modeFreezePin (s : State) : BitVec 1 :=
  match s.mode with
  | .freeze => 1#1
  | .forward => 0#1
  | .reverse => 0#1

end Sys2Proof.Machine
end

