-- ==== Sys2Proof/Machine/Step.lean ====
section
/-! DEFINITION. One step of the machine, and the state in which the next step runs a given command. -/

namespace Sys2Proof.Machine

/-- One step: the next event of the port. A configuration outside the constraints of 00_scope.md R6 is
refused (93_implementation_defined.md U6, U7). -/
def step (s : State) : Host.Outcome State Fault Refusal :=
  if s.cfg.legal then runPort s else .refused .configOutOfRange

/-- `s` with the command whose low `nbits` bits are those of `w`, the bits above zero, presented at the
command port before everything else: the next step takes it. Log entry 4. -/
def State.withFetchWord (s : State) (nbits w : Nat) : State :=
  s.withPort (.command (BitVec.ofNat 48 (w % 2 ^ nbits)) :: s.port)

end Sys2Proof.Machine
end

