-- ==== Sys2Proof/Machine/Assembler.lean ====
section
/-! DEFINITION. The textual form of commands (30_encoding.md R70) and the pseudo-instructions (R71), as a
function from characters to command words. What R70 leaves open of the text is in log entry 19. -/

namespace Sys2Proof.Machine

/-- The small letter of a capital one: mnemonics and register names are case-insensitive (R70). -/
def lowerChar (ch : Char) : Char :=
  if 65 ≤ ch.toNat && ch.toNat ≤ 90 then Char.ofNat (ch.toNat + 32) else ch

/-- White space inside a line: blank, tab, carriage return. -/
def isBlank (ch : Char) : Bool := ch.toNat = 32 || ch.toNat = 9 || ch.toNat = 13

/-- Without the blanks before and after. -/
def trimChars (cs : List Char) : List Char :=
  ((cs.dropWhile isBlank).reverse.dropWhile isBlank).reverse

/-- The parts between separators. -/
def splitChars (sep : Char) : List Char → List (List Char)
  | [] => [[]]
  | ch :: rest =>
    if ch = sep then [] :: splitChars sep rest
    else match splitChars sep rest with
      | [] => [[ch]]
      | part :: parts => (ch :: part) :: parts

/-- The value of a digit in a base. -/
def digitValue (base : Nat) (ch : Char) : Option Nat :=
  let n := ch.toNat
  let v :=
    if 48 ≤ n && n ≤ 57 then n - 48
    else if 97 ≤ n && n ≤ 102 then n - 87
    else if 65 ≤ n && n ≤ 70 then n - 55
    else 99
  if v < base then some v else none

/-- The natural that digits denote after the digits already read. -/
def digitsFrom (base : Nat) : Nat → List Char → Option Nat
  | acc, [] => some acc
  | acc, ch :: rest =>
    match digitValue base ch with
    | some v => digitsFrom base (acc * base + v) rest
    | none => none

/-- One or more digits. -/
def parseNat (base : Nat) (cs : List Char) : Option Nat :=
  if cs.isEmpty then none else digitsFrom base 0 cs

/-- `0x` and hexadecimal digits, or decimal digits (R70). That the prefix may be a capital `0X` too is the
model's choice: DESIGN CHOICE, log entry 19. -/
def parseUnsigned (cs : List Char) : Option Nat :=
  match cs with
  | '0' :: 'x' :: digits => parseNat 16 digits
  | '0' :: 'X' :: digits => parseNat 16 digits
  | digits => parseNat 10 digits

/-- A decimal number without its sign, as a fraction: digits, or digits, a point and digits. -/
def parseDecimal (cs : List Char) : Option (Nat × Nat) :=
  match splitChars '.' cs with
  | [whole] => (parseNat 10 whole).map fun n => (n, 1)
  | [whole, part] =>
    match parseNat 10 whole, parseNat 10 part with
    | some n, some m => some (n * 10 ^ part.length + m, 10 ^ part.length)
    | _, _ => none
  | _ => none

/-- The binary32 nearest to a signed decimal, round to nearest ties to even (R70). -/
def parseFloat (cs : List Char) : Option Word :=
  match cs with
  | '-' :: digits => (parseDecimal digits).map fun q => f32Neg (f32Lit q.1 q.2)
  | digits => (parseDecimal digits).map fun q => f32Lit q.1 q.2

/-- An unsigned integer below 2^32, taken as the raw 32 bits (R70). -/
def parseRaw (cs : List Char) : Option Word :=
  match parseUnsigned cs with
  | some n => if n < 2 ^ 32 then some (BitVec.ofNat 32 n) else none
  | none => none

/-- A hexadecimal integer may end in the digit `f`; only a decimal number has the suffix `f`. The capital
prefix `0X` is the model's choice: DESIGN CHOICE, log entry 19. -/
def isHex (cs : List Char) : Bool :=
  match cs with
  | '0' :: 'x' :: _ => true
  | '0' :: 'X' :: _ => true
  | _ => false

/-- A `<value>` (R70): raw bits, or a decimal number with the suffix `f`. -/
def parseValue (cs : List Char) : Option Word :=
  match cs.reverse with
  | 'f' :: rest => if isHex cs then parseRaw cs else parseFloat rest.reverse
  | 'F' :: rest => if isHex cs then parseRaw cs else parseFloat rest.reverse
  | _ => parseRaw cs

/-- The register names of 10_state.md R12, in small letters, with their indices. -/
def registerNames : List (List Char × RegIdx) :=
  [ ("x_in".toList, 0x00#8), ("rev_in".toList, 0x01#8), ("fb".toList, 0x02#8),
    ("delay_target".toList, 0x03#8), ("tone_hz".toList, 0x04#8), ("fb_gain".toList, 0x05#8),
    ("flut_depth".toList, 0x06#8), ("mode".toList, 0x07#8), ("filt_cfg".toList, 0x08#8),
    ("lfo_a_inc".toList, 0x09#8), ("lfo_b_inc".toList, 0x0A#8), ("ph_a".toList, 0x0B#8),
    ("ph_b".toList, 0x0C#8), ("y_out".toList, 0x10#8), ("status".toList, 0x11#8),
    ("cur_delay".toList, 0x12#8), ("wr_idx".toList, 0x13#8), ("ta_y0".toList, 0x14#8),
    ("tb_y0".toList, 0x15#8), ("dc_x1".toList, 0x16#8), ("dc_y1".toList, 0x17#8),
    ("id".toList, 0x1F#8) ]

/-- A `<reg>` (R70): a register name, or a numeric index 0x00 to 0xFF. -/
def parseRegister (cs : List Char) : Option RegIdx :=
  match registerNames.lookup (cs.map lowerChar) with
  | some r => some r
  | none =>
    match (if isHex cs then parseUnsigned cs else none) with
    | some n => if n < 256 then some (BitVec.ofNat 8 n) else none
    | none => none

/-- The mode names of the pseudo-instruction `mode` (R71). R70 calls mnemonics and register names
case-insensitive and does not speak of these names; that they are so too is the model's choice: DESIGN
CHOICE, log entry 19. -/
def parseMode (cs : List Char) : Option Word :=
  let name := cs.map lowerChar
  if name = "forward".toList then some 0#32
  else if name = "reverse".toList then some 1#32
  else if name = "freeze".toList then some 2#32
  else none

/-- The commands of a mnemonic in small letters with its operands (R70, R71). -/
def assembleOperands (mnemonic : List Char) (ops : List (List Char)) : Option (List Instr) :=
  match ops with
  | [] =>
    if mnemonic = "nop".toList then some [.nop]
    else if mnemonic = "step".toList then some [.step]
    else if mnemonic = "route".toList then some [.route]
    else if mnemonic = "tick".toList then some [.tick]
    else if mnemonic = "init".toList then some [.init]
    else none
  | [x] =>
    if mnemonic = "rd".toList then (parseRegister x).map fun r => [.rd r]
    else if mnemonic = "sample".toList then (parseValue x).map fun v => [.wr 0x00#8 v, .tick]
    else if mnemonic = "mode".toList then (parseMode x).map fun m => [.wr 0x07#8 m]
    else none
  | [x, y] =>
    if mnemonic = "wr".toList then
      (parseRegister x).bind fun r => (parseValue y).map fun v => [.wr r v]
    else if mnemonic = "rsample".toList then
      (parseValue x).bind fun v => (parseValue y).map fun u =>
        [.wr 0x00#8 v, .step, .wr 0x01#8 u, .route]
    else none
  | [x, y, z, t] =>
    if mnemonic = "ctl".toList then
      (parseValue x).bind fun a => (parseValue y).bind fun b => (parseValue z).bind fun c =>
        (parseValue t).map fun d =>
          [.wr 0x03#8 a, .wr 0x05#8 b, .wr 0x04#8 c, .wr 0x06#8 d]
    else none
  | _ => none

/-- The commands of one line (R70, R71): a comment runs from `#` to the end of the line, and a line with
nothing before it gives no command. None for a line that is no command. -/
def assembleLine (line : List Char) : Option (List Instr) :=
  let text := trimChars (line.takeWhile fun ch => ch ≠ '#')
  let mnemonic := text.takeWhile fun ch => !isBlank ch
  let rest := trimChars (text.dropWhile fun ch => !isBlank ch)
  if text.isEmpty then some []
  else assembleOperands (mnemonic.map lowerChar)
    (if rest.isEmpty then [] else (splitChars ',' rest).map trimChars)

/-- The commands of lines, in order; none when one line is no command. -/
def assembleLines : List (List Char) → Option (List Instr)
  | [] => some []
  | line :: rest =>
    match assembleLine line, assembleLines rest with
    | some is, some more => some (is ++ more)
    | _, _ => none

/-- The command words of a text, one command a line (R70, R71). -/
def assemble (text : String) : Option (List CmdWord) :=
  (assembleLines (splitChars '\n' text.toList)).map fun is => is.map encode

end Sys2Proof.Machine
end

