-- ==== Sys2Proof/Machine/RealNum.lean ====
section
/-! DEFINITION. REAL, the idealised instantiation of NUM: the rationals with exact primitives
(40_numerics.md R77). It is not the hardware; the spec states ideal properties over it. -/

namespace Sys2Proof.Machine

/-- The rational a pattern denotes, an infinity being read as 2^128 (40_numerics.md R75, R80). -/
def f32Value (a : F32) : ℚ := (f32Units a : ℚ) / 2 ^ 149

/-- The binary32 nearest to a rational, ties to even, and infinity past the largest finite value
(R78). In REAL this is `num_to_bits` (R84). A rational zero, which has no sign (R77), is +0.0, and a
negative rational that rounds to zero is -0.0: DEDUCED, log entry 21. -/
def f32OfRat (q : ℚ) : F32 :=
  f32Pack (q.num < 0) (roundUnits (q.num.natAbs * 2 ^ 149) q.den)

/-- `bits_to_num` in REAL: no value for NaN and infinity patterns (R84). -/
def realBitsToNum (b : Word) : Option ℚ :=
  if f32Finite b then some (f32Value b) else none

/-- REAL (40_numerics.md R77, R84). A division by zero, which R79 says no rule can reach, is 0: log
entry 18. -/
def realNum : Numerics ℚ :=
  { fadd := fun a b => a + b
    fsub := fun a b => a - b
    fmul := fun a b => a * b
    fdiv := fun a b => a / b
    fneg := fun a => -a
    lt := fun a b => a < b
    le := fun a b => a ≤ b
    eq := fun a b => a = b
    finite := fun _ => true
    floorNat := fun a => ⌊a⌋.toNat
    ofNat := fun m => (m : ℚ)
    frac24 := fun m => (m : ℚ) / 16777216
    lit := fun p q => (p : ℚ) / (q : ℚ) }

end Sys2Proof.Machine
end

