-- ==== Sys2Proof/Machine/RealBlock.lean ====
section
/-! DEFINITION. The idealised block: every command over REAL (40_numerics.md R77, R84; 10_state.md R15). It is not the
hardware and no step of the machine uses it; the spec states its ideal properties over it, and the REAL
columns of 95_test_vectors.md are its results. -/

namespace Sys2Proof.Machine

/-- STEP over REAL (46_tape_head_step.md R155 in the instantiation of 40_numerics.md R77). -/
def realStep (c : Config) (b : BlockState ℚ) : Option (BlockState ℚ) := stepBlock (fun _ => realNum) c b

/-- ROUTE over REAL (45_feedback_router.md R145). -/
def realRoute (b : BlockState ℚ) : BlockState ℚ := routeBlock realNum b

/-- TICK over REAL (46_tape_head_step.md R165). -/
def realTick (c : Config) (b : BlockState ℚ) : Option (BlockState ℚ) := (realStep c b).map realRoute

/-- The reset state over REAL (10_state.md R35). -/
def realReset (c : Config) : BlockState ℚ := BlockState.initial realNum c

/-- The registers whose WR takes its data through `bits_to_num`: 0x00 to 0x06 (47_host_access.md R171). -/
def takesNumber (reg : RegIdx) : Bool := reg.toNat ≤ 0x06

/-- WR over REAL of data whose number, where the register takes one, is `v` (47_host_access.md R171 to
R173). -/
def realStore (c : Config) (reg : RegIdx) (data : Word) (v : ℚ) (b : BlockState ℚ) : BlockState ℚ :=
  match writeRegisterAs realNum c b reg data v with
  | some t => t
  | none => b.raise .badreg

/-- WR over REAL; none for a NaN or an infinity to a register that takes a number: such a WR is outside
what REAL can express (40_numerics.md R84, 10_state.md R15). A register that takes no number gets its
data as it is, and no number reaches it. Log entry 21. -/
def realWr (c : Config) (reg : RegIdx) (data : Word) (b : BlockState ℚ) : Option (BlockState ℚ) :=
  if takesNumber reg then (realBitsToNum data).map fun v => realStore c reg data v b
  else some (realStore c reg data 0 b)

/-- RD over REAL: the register through `num_to_bits` (47_host_access.md R174, R175; 10_state.md R15). -/
def realRd (reg : RegIdx) (b : BlockState ℚ) : BlockState ℚ × Word :=
  match readRegisterAs f32OfRat b reg with
  | some w => (b, w)
  | none => (b.raise .badreg, 0#32)

/-- A command over REAL: the state and the response (30_encoding.md R56, R61). None only for a WR that
REAL cannot express, and for a STEP or TICK whose WR_IDX names no word of DL. -/
def realExec (c : Config) (i : Instr) (b : BlockState ℚ) : Option (BlockState ℚ × Word) :=
  match i with
  | .nop => some (b, 0#32)
  | .wr reg data => (realWr c reg data b).map fun t => (t, 0#32)
  | .rd reg => some (realRd reg b)
  | .step => (realStep c b).map fun t => (t, f32OfRat t.yOut)
  | .route => some (realRoute b, f32OfRat (realRoute b).fb)
  | .tick => (realTick c b).map fun t => (t, f32OfRat t.yOut)
  | .init => some (realReset c, 0#32)

/-- A command word over REAL (30_encoding.md R66, R68). -/
def realCommand (c : Config) (w : CmdWord) (b : BlockState ℚ) : Option (BlockState ℚ × Word) :=
  match decode w with
  | .ok i => realExec c i b
  | .error _ => some (b.raise .illegal, 0#32)

end Sys2Proof.Machine
end

