-- ==== Sys2Proof/Safety.lean ====
section
/-! DEFINITION. What a legal state and a run within the contract are: the invariants of 10_state.md R36
and the premise and bounds of 60_exceptions.md R190, in the terms the statements use. -/

namespace Sys2Proof.Machine

/-- `lo <= v <= hi` by the comparisons of 40_numerics.md R80: so `v` is not a NaN. -/
def InRange (lo hi v : F32) : Prop := f32Le lo v = true ∧ f32Le v hi = true

/-- The magnitude of `v` is at most `bound`, and `v` is not a NaN. -/
def Within (bound v : F32) : Prop := InRange (f32Neg bound) bound v

/-- One of the quiet NaNs: e = 255 and m[22] = 1 (40_numerics.md R75). -/
def IsQuietNaN (v : F32) : Prop := f32Exponent v = 255 ∧ 4194304 ≤ f32Fraction v

/-- The word of DL at an address. -/
def delayWord (b : BlockState F32) (a : Nat) : F32 := Memory.read (zero builtNum) b.dl a

/-- 10_state.md R36 (a) to (e) on the spec's state, and the canonical form of DL. MODE, FILT_CFG and
STATUS are legal by their types ((d), (e)). -/
structure LegalBlock (c : Config) (b : BlockState F32) : Prop where
  /-- (a) -/
  wrIdx : b.wrIdx.toNat < c.n
  /-- (b) -/
  curDelay : InRange (dLo builtNum) (dHi builtNum c) b.curDelay
  /-- (c) -/
  delayTarget : InRange (dLo builtNum) (dHi builtNum c) b.delayTarget
  /-- (c) -/
  toneHz : InRange (zero builtNum) (hzMax builtNum c) b.toneHz
  /-- (c) -/
  fbGain : InRange (zero builtNum) (fbMax builtNum) b.fbGain
  /-- (c) -/
  flutDepth : InRange (zero builtNum) (flutMax builtNum) b.flutDepth
  /-- 20_memory.md R40, R46. -/
  memory : Memory.wf (zero builtNum) c.n b.dl = true

/-- A state of a legally configured block: a configuration inside 00_scope.md R6 whose sample rate has a
finite binary32, and 10_state.md R36 (a) to (e). -/
structure LegalState (s : State) : Prop where
  config : s.cfg.legal = true
  rate : f32Finite (sampleRate builtNum s.cfg) = true
  block : LegalBlock s.cfg s.toBlockState

/-- Bounds on what the block writes, closed under its operations on operands that are finite: every one
of these values is finite (10_state.md R36 (f), 60_exceptions.md R190). The bounds of Y_OUT and of DL are
R190's; those of the filter memories, 32, 64, 128 and 65536, are the model's, wide enough to be closed. -/
structure BoundedBlock (b : BlockState F32) : Prop where
  /-- "every word of DL is finite and lies in [-1, 1]". -/
  delay : ∀ a, Within 0x3F800000#32 (delayWord b a)
  /-- "`|Y_OUT| <= 2`". -/
  yOut : Within 0x40000000#32 b.yOut
  taY0 : Within 0x42000000#32 b.taY0
  tbY0 : Within 0x42800000#32 b.tbY0
  dcX1 : Within 0x43000000#32 b.dcX1
  dcY1 : Within 0x47800000#32 b.dcY1

/-- A state within the contract: legal, at a sample rate of at least 1 Hz, with bounded values. -/
structure ContractState (s : State) : Prop where
  legal : LegalState s
  rate : f32Le 0x3F800000#32 (sampleRate builtNum s.cfg) = true
  bounded : BoundedBlock s.toBlockState

/-- The STEP part of premise P of 60_exceptions.md R190: the gated input and FB are finite. -/
def StepOperandsFinite (s : State) : Prop :=
  f32Finite (gatedInput builtNum s.toBlockState) = true ∧ f32Finite s.fb = true

/-- The ROUTE part of premise P: in Reverse, REV_IN is finite with magnitude at most 2^126. -/
def RouteOperandsFinite (s : State) : Prop :=
  s.mode = .reverse → Within 0x7E800000#32 s.revIn

/-- Premise P of 60_exceptions.md R190 for one command. -/
def OperandsFinite (i : Instr) (s : State) : Prop :=
  match i with
  | .step => StepOperandsFinite s
  | .route => RouteOperandsFinite s
  | .tick => StepOperandsFinite s ∧ RouteOperandsFinite s
  | .nop => True
  | .wr _ _ => True
  | .rd _ => True
  | .init => True

/-- What a command may read or change of the spec's state is unchanged, but for STATUS. -/
def SameButStatus (a b : BlockState F32) : Prop := { a with status := b.status } = b

/-- `k` steps, stopping at the first fault or refusal. -/
def runSteps : Nat → State → Host.Outcome State Fault Refusal
  | 0, s => .next s
  | k + 1, s =>
    match step s with
    | .next t => runSteps k t
    | .fault r => .fault r
    | .refused r => .refused r

/-- A state in which the host has presented the given events after whatever waits at the port. -/
def State.presented (s : State) (events : List PortEvent) : State := { s with port := s.port ++ events }

/-- The read-only indices of 10_state.md R12. -/
def ReadOnlyIndex (reg : RegIdx) : Prop :=
  (0x10 ≤ reg.toNat ∧ reg.toNat ≤ 0x17) ∨ reg.toNat = 0x1F

/-- The indices that 10_state.md R12 does not map. -/
def UnmappedIndex (reg : RegIdx) : Prop :=
  (0x0D ≤ reg.toNat ∧ reg.toNat ≤ 0x0F) ∨ (0x18 ≤ reg.toNat ∧ reg.toNat ≤ 0x1E) ∨ 0x20 ≤ reg.toNat

/-- `v` is what a register with the range from `lo` to `hi` holds after a WR of `d`: below the range, and
NaN, to the lower bound, above it to the upper bound, inside unchanged (47_host_access.md R177). -/
structure Legalised (lo hi d v : F32) : Prop where
  below : f32Le lo d = false → v = lo
  above : f32Le lo d = true → f32Lt hi d = true → v = hi
  inside : InRange lo hi d → v = d

/-- The sample rate as an exact rational (00_scope.md R6). -/
def exactRate (c : Config) : ℚ := (c.fsNum : ℚ) / (c.fsDen : ℚ)

/-- The table of 10_state.md R35. The reset increments are u32 values, arithmetic modulo 2^32
(00_scope.md R7; log entry 12). -/
structure IsResetBlock (c : Config) (b : BlockState F32) : Prop where
  xIn : b.xIn = 0x00000000#32
  revIn : b.revIn = 0x00000000#32
  fb : b.fb = 0x00000000#32
  yOut : b.yOut = 0x00000000#32
  delayTarget : f32Sign b.delayTarget = false ∧ f32Value b.delayTarget = ((c.n / 2 : Nat) : ℚ)
  curDelay : b.curDelay = b.delayTarget
  toneHz : b.toneHz = f32Mul 0 0x3EFE76C9#32 (f32Lit c.fsNum c.fsDen)
  fbGain : b.fbGain = 0x00000000#32
  flutDepth : b.flutDepth = 0x00000000#32
  mode : b.mode = .forward
  filtCfg : b.filtCfg = 0b10#2
  lfoAInc : b.lfoAInc = BitVec.ofInt 32 ⌊(4 / 10 : ℚ) * 2 ^ 32 / exactRate c + 1 / 2⌋
  lfoBInc : b.lfoBInc = BitVec.ofInt 32 ⌊(35 / 10 : ℚ) * 2 ^ 32 / exactRate c + 1 / 2⌋
  phA : b.phA = 0#32
  phB : b.phB = 0#32
  wrIdx : b.wrIdx = 0#32
  status : b.status = 0#3
  taY0 : b.taY0 = 0x00000000#32
  tbY0 : b.tbY0 = 0x00000000#32
  dcX1 : b.dcX1 = 0x00000000#32
  dcY1 : b.dcY1 = 0x00000000#32
  delay : ∀ a, delayWord b a = 0x00000000#32

/-- The least magnitude that rounds to an infinity (40_numerics.md R78). -/
def overflowThreshold : ℚ := 2 ^ 127 * (2 - 1 / 2 ^ 24)

/-- `r` is the exact result `q` rounded once to binary32, to nearest and ties to even (40_numerics.md
R78). -/
structure RoundsTo (q : ℚ) (r : F32) : Prop where
  overflow : overflowThreshold ≤ |q| → r = f32Inf (decide (q < 0))
  finite : |q| < overflowThreshold → f32Finite r = true
  nearest : |q| < overflowThreshold → ∀ v, f32Finite v = true →
    |f32Value r - q| ≤ |f32Value v - q|
  even : |q| < overflowThreshold → ∀ v, f32Finite v = true → |f32Value r - q| = |f32Value v - q| →
    f32Value v ≠ f32Value r → f32Fraction r % 2 = 0

/-- `r` is what one of the four primitives answers on finite operands whose exact result is `q`, in some
draw (40_numerics.md R78, R91). -/
inductive PrimitiveResult : ℚ → F32 → Prop
  | add (k : Nat) (a b : F32) : f32Finite a = true → f32Finite b = true →
      PrimitiveResult (f32Value a + f32Value b) (f32Add k a b)
  | sub (k : Nat) (a b : F32) : f32Finite a = true → f32Finite b = true →
      PrimitiveResult (f32Value a - f32Value b) (f32Sub k a b)
  | mul (k : Nat) (a b : F32) : f32Finite a = true → f32Finite b = true →
      PrimitiveResult (f32Value a * f32Value b) (f32Mul k a b)
  | div (k : Nat) (a b : F32) : f32Finite a = true → f32Finite b = true → f32Value b ≠ 0 →
      PrimitiveResult (f32Value a / f32Value b) (f32Div k a b)

/-- The word of DL at an integer delay behind the write index (41_delay_line.md R104). -/
def delayedSample (c : Config) (b : BlockState F32) (k : Nat) : F32 :=
  delayWord b (((b.wrIdx.toNat : Int) - (k : Int)) % (c.n : Int)).toNat

/-- The registers that STEP reads or keeps and never writes (46_tape_head_step.md R155). -/
structure SameControls (a b : BlockState F32) : Prop where
  xIn : b.xIn = a.xIn
  revIn : b.revIn = a.revIn
  delayTarget : b.delayTarget = a.delayTarget
  toneHz : b.toneHz = a.toneHz
  fbGain : b.fbGain = a.fbGain
  flutDepth : b.flutDepth = a.flutDepth
  mode : b.mode = a.mode
  filtCfg : b.filtCfg = a.filtCfg
  lfoAInc : b.lfoAInc = a.lfoAInc
  lfoBInc : b.lfoBInc = a.lfoBInc

/-- Everything a STEP writes but for the phases is at rest: the operands, the memories and the output
are +0.0, and CUR_DELAY has arrived (46_tape_head_step.md R168 (d)). -/
structure Silent (b : BlockState F32) : Prop where
  xIn : b.xIn = 0x00000000#32
  fb : b.fb = 0x00000000#32
  flutDepth : b.flutDepth = 0x00000000#32
  curDelay : b.curDelay = b.delayTarget
  yOut : b.yOut = 0x00000000#32
  taY0 : b.taY0 = 0x00000000#32
  tbY0 : b.tbY0 = 0x00000000#32
  dcX1 : b.dcX1 = 0x00000000#32
  dcY1 : b.dcY1 = 0x00000000#32
  delay : ∀ a, delayWord b a = 0x00000000#32

end Sys2Proof.Machine
end

