-- ==== Sys2Proof/Certificates/Slice0/Obligations.lean ====
section
/-! DEFINITION. The statements for the provers, file by file of the spec. -/

open Sys2Proof Sys2Proof.Machine

/-! ### Encoding (30_encoding.md, 20_memory.md R43) -/

/-- 30_encoding.md R58, R60, R68; 20_memory.md R43: every command decodes from the word that encodes it,
and from that word's six bytes, least significant first, leaving the bytes that follow. -/
def Obligations.DecodeEncodeRoundTrip : Prop :=
  ∀ (i : Instr) (rest : List Byte), WellFormed i = true →
    decode (encode i) = .ok i ∧ decodeBytes (bytesOfWord (encode i) ++ rest) = .ok (i, rest)

/-- 30_encoding.md R60, R68: a word that decodes to a command is the word of that command: no bit of a
legal word is ignored, and the command is well formed. -/
def Obligations.EncodeDecodeRoundTrip : Prop :=
  ∀ (c : CmdWord) (i : Instr), decode c = .ok i → encode i = c ∧ WellFormed i = true

/-- 30_encoding.md R60: a word is the command of a row exactly when (c AND mask) = match, for each of the
seven rows; a word of no row is no command. -/
def Obligations.DecodeFollowsOpcodeMap : Prop :=
  ∀ c : CmdWord,
    (c &&& 0xFFFFFFFFFFFF#48 = 0x000000000000#48 ↔ decode c = .ok .nop) ∧
    (c &&& 0xFF0000000000#48 = 0x010000000000#48 ↔ ∃ reg data, decode c = .ok (.wr reg data)) ∧
    (c &&& 0xFF00FFFFFFFF#48 = 0x020000000000#48 ↔ ∃ reg, decode c = .ok (.rd reg)) ∧
    (c &&& 0xFFFFFFFFFFFF#48 = 0x030000000000#48 ↔ decode c = .ok .step) ∧
    (c &&& 0xFFFFFFFFFFFF#48 = 0x040000000000#48 ↔ decode c = .ok .route) ∧
    (c &&& 0xFFFFFFFFFFFF#48 = 0x050000000000#48 ↔ decode c = .ok .tick) ∧
    (c &&& 0xFFFFFFFFFFFF#48 = 0x060000000000#48 ↔ decode c = .ok .init) ∧
    ((∃ row ∈ opcodeRows, row.accepts c = true) ↔ ∃ i, decode c = .ok i)

/-- 30_encoding.md R66: which words are illegal, by opcode, index and data; what an illegal word does: sets
STATUS.ILLEGAL, answers 0, and nothing else; and that an unmapped or read-only index is a legal
encoding. -/
def Obligations.IllegalWords : Prop :=
  (∀ c : CmdWord, ((∃ why, decode c = .error why) ↔
    7 ≤ c.toNat / 2 ^ 40 ∨
      ((c.toNat / 2 ^ 40 = 0 ∨ c.toNat / 2 ^ 40 = 3 ∨ c.toNat / 2 ^ 40 = 4 ∨ c.toNat / 2 ^ 40 = 5 ∨
          c.toNat / 2 ^ 40 = 6) ∧
        (c.toNat / 2 ^ 32 % 256 ≠ 0 ∨ c.toNat % 2 ^ 32 ≠ 0)) ∨
      (c.toNat / 2 ^ 40 = 2 ∧ c.toNat % 2 ^ 32 ≠ 0))) ∧
  (∀ (s : State) (c : CmdWord) (rest : List PortEvent) (why : IllegalWord),
    s.cfg.legal = true → s.port = .command c :: rest → decode c = .error why →
    step s = .next { s with status := s.status ||| 0b010#3, port := rest, rsp := some 0x00000000#32 }) ∧
  (∀ (reg : RegIdx) (data : Word), decode (joinFields 0x01#8 reg data) = .ok (.wr reg data) ∧
    decode (joinFields 0x02#8 reg 0#32) = .ok (.rd reg))

/-- Words written out from the tables of 30_encoding.md R58 and R60 decode to the commands that
95_test_vectors.md lists for them. -/
def Obligations.SampleWordsDecode : Prop :=
  decode 0x000000000000#48 = .ok .nop ∧
  decode 0x01003F800000#48 = .ok (.wr 0x00#8 0x3F800000#32) ∧
  decode 0x0108FFFFFFFD#48 = .ok (.wr 0x08#8 0xFFFFFFFD#32) ∧
  decode 0x021200000000#48 = .ok (.rd 0x12#8) ∧
  decode 0x030000000000#48 = .ok .step ∧
  decode 0x040000000000#48 = .ok .route ∧
  decode 0x050000000000#48 = .ok .tick ∧
  decode 0x060000000000#48 = .ok .init ∧
  decode 0x021000000001#48 = .error .readDataNotZero ∧
  decode 0x030000000001#48 = .error .operandNotZero ∧
  decode 0x000100000000#48 = .error .operandNotZero ∧
  decode 0x070000000000#48 = .error .undefinedOpcode ∧
  decode 0xFFFFFFFFFFFF#48 = .error .undefinedOpcode

/-! ### One step (30_encoding.md R56, R57, R61; 10_state.md R37, R38; 70_reset_and_hazards.md R205) -/

/-- A step takes the oldest command word of the port, and when it decodes to a command runs exactly that
command on the state whose port no longer holds it; the word that `withFetchWord` presents is that
word. The port is the model's form of the host (log entry 4). -/
def Obligations.StepRunsDecodedCommand : Prop :=
  ∀ (s : State) (c : CmdWord) (i : Instr), s.cfg.legal = true → decode c = .ok i →
    (∀ rest, s.port = .command c :: rest → step s = exec i { s with port := rest }) ∧
    step (s.withFetchWord 48 c.toNat) = exec i s

/-- The model's port (log entries 3 to 6): with nothing presented a step changes no state and gives no
response (10_state.md R38: the block never acts on its own); an assertion of `rst` gives the reset state
and no response (70_reset_and_hazards.md R205), the count of draws staying. -/
def Obligations.IdleAndReset : Prop :=
  ∀ s : State, s.cfg.legal = true →
    (s.port = [] → step s = .next { s with rsp := none }) ∧
    (∀ rest, s.port = .reset :: rest →
      ∃ t, step s = .next t ∧ IsResetBlock s.cfg t.toBlockState ∧ t.cfg = s.cfg ∧ t.port = rest ∧
        t.rsp = none ∧ t.draws = s.draws)

/-- The model's stops, and when exactly. A step is refused only for a configuration outside 00_scope.md R6
(93_implementation_defined.md U6, U7; log entry 10), and no command is ever refused. STEP and TICK fault
only where 10_state.md R36 (a) is broken, for the word they would write does not exist (log entry 8); no
other command, and no other event of the port, faults. -/
def Obligations.ModelStops : Prop :=
  (∀ s : State, (∃ r, step s = .refused r) ↔
    ¬ (0 < s.cfg.fsNum ∧ 0 < s.cfg.fsDen ∧ 8 ≤ s.cfg.n ∧ s.cfg.n ≤ 2 ^ 24 ∧
      0 < s.cfg.kSlewNum ∧ s.cfg.kSlewNum < s.cfg.kSlewDen)) ∧
  (∀ (s : State) (r : Refusal), step s = .refused r → r = .configOutOfRange) ∧
  (∀ (i : Instr) (s : State) (r : Refusal), exec i s ≠ .refused r) ∧
  (∀ (i : Instr) (s : State) (r : Fault), exec i s = .fault r ↔
    (i = .step ∨ i = .tick) ∧ ¬ s.wrIdx.toNat < s.cfg.n ∧ r = .noSuchDelayWord s.wrIdx) ∧
  (∀ (s : State) (r : Fault), step s = .fault r ↔
    s.cfg.legal = true ∧ (∃ c rest, s.port = .command c :: rest ∧
      (decode c = .ok .step ∨ decode c = .ok .tick)) ∧
    ¬ s.wrIdx.toNat < s.cfg.n ∧ r = .noSuchDelayWord s.wrIdx)

/-- 30_encoding.md R61: every accepted word, legal or not, gives one response, by the table. -/
def Obligations.ResponseTable : Prop :=
  ∀ (s : State) (c : CmdWord) (rest : List PortEvent), s.cfg.legal = true →
    s.port = .command c :: rest → s.wrIdx.toNat < s.cfg.n →
    ∃ t, step s = .next t ∧ t.port = rest ∧
      (decode c = .ok .nop → t.rsp = some 0x00000000#32) ∧
      (∀ reg data, decode c = .ok (.wr reg data) → t.rsp = some 0x00000000#32) ∧
      (decode c = .ok .init → t.rsp = some 0x00000000#32) ∧
      (∀ reg w, decode c = .ok (.rd reg) → readRegister s.toBlockState reg = some w → t.rsp = some w) ∧
      (∀ reg, decode c = .ok (.rd reg) → UnmappedIndex reg → t.rsp = some 0x00000000#32) ∧
      (decode c = .ok .step → t.rsp = some t.yOut) ∧
      (decode c = .ok .tick → t.rsp = some t.yOut) ∧
      (decode c = .ok .route → t.rsp = some t.fb) ∧
      (∀ why, decode c = .error why → t.rsp = some 0x00000000#32)

/-- 10_state.md R37, R28 and 60_exceptions.md R192: a step never changes the configuration; a command sets
at most one STATUS bit, the one of its kind, and clears none, but for INIT, which clears all. -/
def Obligations.ConfigurationKeptAndFlagsSticky : Prop :=
  (∀ s t : State, step s = .next t → t.cfg = s.cfg) ∧
  (∀ (i : Instr) (s t : State), exec i s = .next t →
    match i with
    | .nop => t.status = s.status
    | .wr _ _ => t.status = s.status ∨ t.status = s.status ||| 0b100#3
    | .rd _ => t.status = s.status ∨ t.status = s.status ||| 0b100#3
    | .step => t.status = s.status ∨ t.status = s.status ||| 0b001#3
    | .route => t.status = s.status ∨ t.status = s.status ||| 0b001#3
    | .tick => t.status = s.status ∨ t.status = s.status ||| 0b001#3
    | .init => t.status = 0#3)

/-- 10_state.md R28: the STATUS bits steer nothing. A command run with other STATUS bits completes too, and
leaves everything else the same, its response too but for RD of STATUS. -/
def Obligations.StatusSteersNothing : Prop :=
  ∀ (i : Instr) (s t : State) (v : BitVec 3), exec i s = .next t →
    ∃ u, exec i { s with status := v } = .next u ∧ SameButStatus u.toBlockState t.toBlockState ∧
      u.cfg = t.cfg ∧ u.port = t.port ∧ u.draws = t.draws ∧ (i ≠ .rd 0x11#8 → u.rsp = t.rsp)

/-! ### Host access (47_host_access.md) -/

/-- 47_host_access.md R170: NOP. -/
def Obligations.NopDoesNothing : Prop :=
  assemble "nop" = some [0x000000000000#48] ∧ decode 0x000000000000#48 = .ok .nop ∧
  encode .nop = 0x000000000000#48 ∧
  ∀ s : State, exec .nop s = .next { s with rsp := some 0x00000000#32 }

/-- 47_host_access.md R171, the registers that are not legalised: the 32 bits are stored as they are,
NaN and infinity patterns included, and nothing else changes. -/
def Obligations.WrStoresPlainRegisters : Prop :=
  ∀ (s : State) (d : Word),
    exec (.wr 0x00#8 d) s = .next { s with xIn := d, rsp := some 0x00000000#32 } ∧
    exec (.wr 0x01#8 d) s = .next { s with revIn := d, rsp := some 0x00000000#32 } ∧
    exec (.wr 0x02#8 d) s = .next { s with fb := d, rsp := some 0x00000000#32 } ∧
    exec (.wr 0x09#8 d) s = .next { s with lfoAInc := d, rsp := some 0x00000000#32 } ∧
    exec (.wr 0x0A#8 d) s = .next { s with lfoBInc := d, rsp := some 0x00000000#32 } ∧
    exec (.wr 0x0B#8 d) s = .next { s with phA := d, rsp := some 0x00000000#32 } ∧
    exec (.wr 0x0C#8 d) s = .next { s with phB := d, rsp := some 0x00000000#32 }

/-- 47_host_access.md R171 and R177, the legalised registers: each stores the legal value of its data,
sets no flag, and changes nothing else. -/
def Obligations.WrLegalises : Prop :=
  ∀ (s : State) (d : Word),
    (∃ v, exec (.wr 0x03#8 d) s = .next { s with delayTarget := v, rsp := some 0x00000000#32 } ∧
      Legalised 0x40000000#32 (f32Lit (s.cfg.n - 2) 1) d v) ∧
    (∃ v, exec (.wr 0x04#8 d) s = .next { s with toneHz := v, rsp := some 0x00000000#32 } ∧
      Legalised 0x00000000#32 (f32Mul 0 0x3EFE76C9#32 (f32Lit s.cfg.fsNum s.cfg.fsDen)) d v) ∧
    (∃ v, exec (.wr 0x05#8 d) s = .next { s with fbGain := v, rsp := some 0x00000000#32 } ∧
      Legalised 0x00000000#32 0x3F99999A#32 d v) ∧
    (∃ v, exec (.wr 0x06#8 d) s = .next { s with flutDepth := v, rsp := some 0x00000000#32 } ∧
      Legalised 0x00000000#32 0x42700000#32 d v) ∧
    exec (.wr 0x08#8 d) s = .next { s with filtCfg := d.extractLsb' 0 2, rsp := some 0x00000000#32 }

/-- 47_host_access.md R173 and 10_state.md R23: WR of MODE. -/
def Obligations.WrMode : Prop :=
  ∀ s : State,
    exec (.wr 0x07#8 0#32) s = .next { s with mode := .forward, rsp := some 0x00000000#32 } ∧
    exec (.wr 0x07#8 1#32) s = .next { s with mode := .reverse, rsp := some 0x00000000#32 } ∧
    exec (.wr 0x07#8 2#32) s = .next { s with mode := .freeze, rsp := some 0x00000000#32 } ∧
    ∀ d : Word, d ≠ 0#32 → d ≠ 1#32 → d ≠ 2#32 →
      exec (.wr 0x07#8 d) s =
        .next { s with status := s.status ||| 0b100#3, rsp := some 0x00000000#32 }

/-- 47_host_access.md R172: WR of a read-only or an unmapped index changes no register and sets
STATUS.BADREG; it is a legal encoding. -/
def Obligations.WrIgnored : Prop :=
  (∀ (s : State) (reg : RegIdx) (d : Word), ReadOnlyIndex reg ∨ UnmappedIndex reg →
    decode (joinFields 0x01#8 reg d) = .ok (.wr reg d) ∧
    exec (.wr reg d) s =
      .next { s with status := s.status ||| 0b100#3, rsp := some 0x00000000#32 }) ∧
  decode 0x011100000000#48 = .ok (.wr 0x11#8 0#32)

/-- 47_host_access.md R174 and R175: RD answers the 32 bits of a mapped register and changes nothing; of an
unmapped index it answers 0 and sets STATUS.BADREG. -/
def Obligations.RdAnswersRegister : Prop :=
  (∀ s : State,
    exec (.rd 0x00#8) s = .next { s with rsp := some s.xIn } ∧
    exec (.rd 0x01#8) s = .next { s with rsp := some s.revIn } ∧
    exec (.rd 0x02#8) s = .next { s with rsp := some s.fb } ∧
    exec (.rd 0x03#8) s = .next { s with rsp := some s.delayTarget } ∧
    exec (.rd 0x04#8) s = .next { s with rsp := some s.toneHz } ∧
    exec (.rd 0x05#8) s = .next { s with rsp := some s.fbGain } ∧
    exec (.rd 0x06#8) s = .next { s with rsp := some s.flutDepth } ∧
    (s.mode = .forward → exec (.rd 0x07#8) s = .next { s with rsp := some 0#32 }) ∧
    (s.mode = .reverse → exec (.rd 0x07#8) s = .next { s with rsp := some 1#32 }) ∧
    (s.mode = .freeze → exec (.rd 0x07#8) s = .next { s with rsp := some 2#32 }) ∧
    exec (.rd 0x08#8) s = .next { s with rsp := some (s.filtCfg.setWidth 32) } ∧
    exec (.rd 0x09#8) s = .next { s with rsp := some s.lfoAInc } ∧
    exec (.rd 0x0A#8) s = .next { s with rsp := some s.lfoBInc } ∧
    exec (.rd 0x0B#8) s = .next { s with rsp := some s.phA } ∧
    exec (.rd 0x0C#8) s = .next { s with rsp := some s.phB } ∧
    exec (.rd 0x10#8) s = .next { s with rsp := some s.yOut } ∧
    exec (.rd 0x11#8) s = .next { s with rsp := some (s.status.setWidth 32) } ∧
    exec (.rd 0x12#8) s = .next { s with rsp := some s.curDelay } ∧
    exec (.rd 0x13#8) s = .next { s with rsp := some s.wrIdx } ∧
    exec (.rd 0x14#8) s = .next { s with rsp := some s.taY0 } ∧
    exec (.rd 0x15#8) s = .next { s with rsp := some s.tbY0 } ∧
    exec (.rd 0x16#8) s = .next { s with rsp := some s.dcX1 } ∧
    exec (.rd 0x17#8) s = .next { s with rsp := some s.dcY1 } ∧
    exec (.rd 0x1F#8) s = .next { s with rsp := some 0x46444901#32 }) ∧
  (∀ (s : State) (reg : RegIdx), UnmappedIndex reg →
    exec (.rd reg) s =
      .next { s with status := s.status ||| 0b100#3, rsp := some 0x00000000#32 }) ∧
  (∀ (reg : RegIdx) (d : Word), decode (joinFields 0x02#8 reg d) =
    if d = 0#32 then .ok (.rd reg) else .error .readDataNotZero) ∧
  assemble "rd CUR_DELAY" = some [0x021200000000#48] ∧
  assemble "rd 0x0D" = some [0x020D00000000#48] ∧
  exec (.rd 0x12#8) State.reset = .next { State.reset with rsp := some 0x41000000#32 }

/-- 47_host_access.md R171 and 20_memory.md R48, R49: a WR completes for every index and datum, and no
register but the one written and STATUS reads differently after it; DL stays. -/
def Obligations.WrFrame : Prop :=
  ∀ (s : State) (reg : RegIdx) (d : Word), ∃ t, exec (.wr reg d) s = .next t ∧
    (∀ r : RegIdx, r ≠ reg → r ≠ 0x11#8 →
      readRegister t.toBlockState r = readRegister s.toBlockState r) ∧
    (∀ a, delayWord t.toBlockState a = delayWord s.toBlockState a) ∧
    (ReadOnlyIndex reg → reg ≠ 0x11#8 →
      readRegister t.toBlockState reg = readRegister s.toBlockState reg)

/-- 47_host_access.md R176 and 10_state.md R35: INIT puts every register and every word of DL to its reset
value, changes no parameter and answers 0. That the port and the count of draws stay is the model's (log entries
3 and 4); the increments' exact form is DEDUCED (log entry 12). -/
def Obligations.InitResets : Prop :=
  ∀ s : State, s.cfg.legal = true →
    ∃ t, exec .init s = .next t ∧ IsResetBlock s.cfg t.toBlockState ∧ t.cfg = s.cfg ∧
      t.port = s.port ∧ t.draws = s.draws ∧ t.rsp = some 0x00000000#32

/-- 10_state.md R35: the state after reset and after INIT, for every legal configuration, and the patterns it
lists for the default parameters of 00_scope.md R6. That the increments come from the exact rational FS,
modulo 2^32 (00_scope.md R6, R7), is DEDUCED: log entry 12. -/
def Obligations.ResetValues : Prop :=
  (∀ c : Config, c.legal = true → IsResetBlock c (State.resetWith c).toBlockState) ∧
  (∀ s : State, s.cfg.legal = true → ∃ t, exec .init s = .next t ∧ IsResetBlock s.cfg t.toBlockState) ∧
  State.reset.delayTarget = 0x41000000#32 ∧ State.reset.curDelay = 0x41000000#32 ∧
  State.reset.toneHz = 0x46BA6000#32 ∧ State.reset.lfoAInc = 0x00008BCF#32 ∧
  State.reset.lfoBInc = 0x0004C757#32

/-- 10_state.md R34: the side-band outputs. -/
def Obligations.SideBandOutputs : Prop :=
  ∀ s : State, yOutPin s = s.yOut ∧ (modeReversePin s = 1#1 ↔ s.mode = .reverse) ∧
    (modeFreezePin s = 1#1 ↔ s.mode = .freeze) ∧ modeReversePin s &&& modeFreezePin s = 0#1

/-! ### ROUTE (45_feedback_router.md) -/

/-- 45_feedback_router.md R145 to R149: ROUTE by mode. It writes FB, answers it, sets STATUS.NONFINITE when
the source or the product is not finite, and leaves all else, DL included. The draw of a NaN's pattern
is the model's (log entry 2). -/
def Obligations.RouteByMode : Prop :=
  ∀ (s : State) (src g : F32),
    (s.mode = .forward → src = s.yOut ∧ g = s.fbGain) →
    (s.mode = .reverse → src = s.revIn ∧ g = s.fbGain) →
    (s.mode = .freeze → src = s.yOut ∧ g = 0x3F59999A#32) →
    exec .route s = .next
      { s with
        fb := f32Mul s.draws src g
        status := if f32Finite src = true ∧ f32Finite (f32Mul s.draws src g) = true then s.status
          else s.status ||| 0b001#3
        draws := s.draws + 1
        rsp := some (f32Mul s.draws src g) }

/-- 45_feedback_router.md R151: FB after ROUTE does not depend on the old FB; a second ROUTE changes nothing
of the spec's state, but that a NaN in FB may come with another pattern (40_numerics.md R79). -/
def Obligations.RouteIdempotent : Prop :=
  ∀ s : State, ∃ t u, exec .route s = .next t ∧ exec .route t = .next u ∧
    (∀ v, exec .route { s with fb := v } = .next t) ∧
    (u.fb = t.fb ∨ (f32IsNaN u.fb = true ∧ f32IsNaN t.fb = true)) ∧
    { u.toBlockState with fb := t.fb } = t.toBlockState

/-- 45_feedback_router.md R150: outside Reverse, with |Y_OUT| <= 2 and a legal gain, |FB| <= 2.4. -/
def Obligations.RouteBound : Prop :=
  ∀ s : State, s.mode ≠ .reverse → Within 0x40000000#32 s.yOut →
    InRange 0x00000000#32 0x3F99999A#32 s.fbGain →
    ∃ t, exec .route s = .next t ∧ Within 0x4019999A#32 t.fb ∧ t.status = s.status

/-! ### STEP and TICK (46_tape_head_step.md, with 41, 42, 43 and 44) -/

/-- 46_tape_head_step.md R155, R158, R159; 41_delay_line.md R101; 44_flutter_modulator.md R135; 10_state.md
R33: STEP completes; what it writes to DL and where; the phases and WR_IDX; its response; and its frame:
no control register, no other word of DL, no parameter. The draw numbers are the model's (log entry
2). -/
def Obligations.StepWritesAndFrame : Prop :=
  ∀ (s : State) (x : F32), s.cfg.legal = true → s.wrIdx.toNat < s.cfg.n →
    Memory.wf 0x00000000#32 s.cfg.n s.dl = true →
    (s.mode = .freeze → x = 0x00000000#32) → (s.mode ≠ .freeze → x = s.xIn) →
    ∃ t, exec .step s = .next t ∧
      t.phA = s.phA + s.lfoAInc ∧ t.phB = s.phB + s.lfoBInc ∧
      t.wrIdx.toNat = (s.wrIdx.toNat + 1) % s.cfg.n ∧
      delayWord t.toBlockState s.wrIdx.toNat =
        sat (f32Num (s.draws + 1))
          (f32Mul (s.draws + 1) 0x3FA66666#32 (f32Add (s.draws + 1) x s.fb)) ∧
      (∀ a, a ≠ s.wrIdx.toNat → delayWord t.toBlockState a = delayWord s.toBlockState a) ∧
      SameControls s.toBlockState t.toBlockState ∧ t.fb = s.fb ∧ t.cfg = s.cfg ∧ t.port = s.port ∧
      t.rsp = some t.yOut

/-- 46_tape_head_step.md R155, R157, R160 to R163: the rest of what STEP writes. CUR_DELAY slews toward the
clamped, flutter-perturbed target; the sample read at the new CUR_DELAY behind the advanced write index
passes the two tone stages, the DC blocker and the limiter; STATUS.NONFINITE follows the operands and
the result. The numbers added to `draws` are the model's (log entry 2). -/
def Obligations.StepPipeline : Prop :=
  ∀ (s : State) (x : F32), s.wrIdx.toNat < s.cfg.n →
    (s.mode = .freeze → x = 0x00000000#32) → (s.mode ≠ .freeze → x = s.xIn) →
    ∃ t, exec .step s = .next t ∧
      (∃ off, off = f32Mul s.draws s.flutDepth (flutterMix (f32Num s.draws)
          (wavePar (f32Num s.draws) (s.phA + s.lfoAInc)) (waveTri (f32Num s.draws) (s.phB + s.lfoBInc))) ∧
        t.curDelay = slew (f32Num (s.draws + 2)) (f32Lit s.cfg.kSlewNum s.cfg.kSlewDen) s.curDelay
          (clampN (f32Num s.draws) (f32Add s.draws s.delayTarget off) 0x40000000#32
            (f32Lit (s.cfg.n - 2) 1))) ∧
      ∃ (i : Nat) (r ta tb : F32), i = f32FloorNat t.curDelay ∧
        r = hermite (f32Num (s.draws + 3))
          (delayWord t.toBlockState (((t.wrIdx.toNat : Int) - i + 1) % s.cfg.n).toNat)
          (delayWord t.toBlockState (((t.wrIdx.toNat : Int) - i) % s.cfg.n).toNat)
          (delayWord t.toBlockState (((t.wrIdx.toNat : Int) - i - 1) % s.cfg.n).toNat)
          (delayWord t.toBlockState (((t.wrIdx.toNat : Int) - i - 2) % s.cfg.n).toNat)
          (f32Sub (s.draws + 3) t.curDelay (f32Lit i 1)) ∧
        (t.taY0, ta) = onepole (f32Num (s.draws + 4)) s.taY0
          (coef (f32Num (s.draws + 4)) s.cfg s.toneHz) r (s.filtCfg.getLsbD 0) ∧
        (t.tbY0, tb) = onepole (f32Num (s.draws + 5)) s.tbY0
          (coef (f32Num (s.draws + 5)) s.cfg 0x43130000#32) ta (s.filtCfg.getLsbD 1) ∧
        t.dcX1 = tb ∧
        t.dcY1 = f32Add (s.draws + 6) (f32Sub (s.draws + 6) tb s.dcX1)
          (f32Mul (s.draws + 6) 0x3F7EB852#32 s.dcY1) ∧
        t.yOut = lim (f32Num (s.draws + 7)) t.dcY1 ∧
        t.status = if f32Finite x = true ∧ f32Finite s.fb = true ∧ f32Finite t.yOut = true then s.status
          else s.status ||| 0b001#3

/-- 46_tape_head_step.md R165: TICK is STEP followed by ROUTE, in every mode, STATUS included; its response
is Y_OUT, that of STEP. -/
def Obligations.TickIsStepThenRoute : Prop :=
  assemble "tick" = some [0x050000000000#48] ∧ decode 0x050000000000#48 = .ok .tick ∧
  ∀ s : State, s.wrIdx.toNat < s.cfg.n →
    ∃ a b, exec .step s = .next a ∧ exec .route a = .next b ∧
      exec .tick s = .next { b with rsp := some a.yOut } ∧ b.yOut = a.yOut ∧ a.revIn = s.revIn ∧
      (∀ n, b.dl = a.dl ∧ delayWord b.toBlockState n = delayWord a.toBlockState n)

/-- 46_tape_head_step.md R155, R158, R164: what STEP does not read, it keeps and does not depend on. REV_IN
and FB_GAIN in every mode; in Freeze X_IN too, in TICK as in STEP, so that a non-finite X_IN is not
flagged there. -/
def Obligations.StepIgnoresUnreadRegisters : Prop :=
  ∀ (s : State) (v g : F32), s.wrIdx.toNat < s.cfg.n →
    (∃ t, exec .step s = .next t ∧
      exec .step { s with revIn := v, fbGain := g } = .next { t with revIn := v, fbGain := g }) ∧
    (s.mode = .freeze →
      (∃ t, exec .step s = .next t ∧ exec .step { s with xIn := v } = .next { t with xIn := v }) ∧
      (∃ t, exec .tick s = .next t ∧ exec .tick { s with xIn := v } = .next { t with xIn := v }))

/-- 10_state.md R33 and 42_tone_filter_chain.md R123: only STEP, TICK and INIT change DL, the filter
memories, WR_IDX, CUR_DELAY and Y_OUT. -/
def Obligations.OnlyStepTouchesSignalState : Prop :=
  ∀ (i : Instr) (s t : State), i ≠ .step → i ≠ .tick → i ≠ .init → exec i s = .next t →
    (∀ a, delayWord t.toBlockState a = delayWord s.toBlockState a) ∧ t.taY0 = s.taY0 ∧
    t.tbY0 = s.tbY0 ∧ t.dcX1 = s.dcX1 ∧ t.dcY1 = s.dcY1 ∧ t.wrIdx = s.wrIdx ∧
    t.curDelay = s.curDelay ∧ t.yOut = s.yOut

/-- 41_delay_line.md R104: after a STEP the word at delay 1 is the sample it wrote, and the word at delay
k + 1 is the one that stood at delay k, for 1 <= k < N; delay N shares its address with delay 0. -/
def Obligations.DelayWindowShifts : Prop :=
  ∀ s : State, LegalState s →
    ∃ t, exec .step s = .next t ∧
      delayedSample s.cfg t.toBlockState 1 = drivenSample (f32Num (s.draws + 1)) s.toBlockState ∧
      (∀ k, 1 ≤ k → k < s.cfg.n →
        delayedSample s.cfg t.toBlockState (k + 1) = delayedSample s.cfg s.toBlockState k) ∧
      delayedSample s.cfg t.toBlockState s.cfg.n = delayedSample s.cfg t.toBlockState 0

/-- 20_memory.md R42 and 41_delay_line.md R104: the integer part i of CUR_DELAY lies in [2, N - 2]; of the
four addresses a STEP reads, the first is the word this STEP wrote exactly when i = 2 and no other ever
is; the last is the advanced write index exactly when i = N - 2. -/
def Obligations.ReadGeometry : Prop :=
  ∀ s : State, LegalState s →
    ∃ t, exec .step s = .next t ∧ ∃ i : Nat, i = f32FloorNat t.curDelay ∧ 2 ≤ i ∧ i ≤ s.cfg.n - 2 ∧
      ((((t.wrIdx.toNat : Int) - i + 1) % s.cfg.n = s.wrIdx.toNat) ↔ i = 2) ∧
      ((t.wrIdx.toNat : Int) - i) % s.cfg.n ≠ s.wrIdx.toNat ∧
      ((t.wrIdx.toNat : Int) - i - 1) % s.cfg.n ≠ s.wrIdx.toNat ∧
      ((t.wrIdx.toNat : Int) - i - 2) % s.cfg.n ≠ s.wrIdx.toNat ∧
      ((((t.wrIdx.toNat : Int) - i - 2) % s.cfg.n = t.wrIdx.toNat) ↔ i = s.cfg.n - 2)

/-- 46_tape_head_step.md R168 (d): silence in, silence out. From rest a STEP answers +0.0 and changes only
PH_A, PH_B and WR_IDX. The rate of at least 1 Hz keeps the coefficients finite (log entry 20); that
FLUT_DEPTH is zero and CUR_DELAY has arrived is part of being at rest. -/
def Obligations.SilenceIsFixed : Prop :=
  ∀ s : State, LegalState s → f32Le 0x3F800000#32 (f32Lit s.cfg.fsNum s.cfg.fsDen) = true →
    Silent s.toBlockState →
    ∃ t, exec .step s = .next t ∧ t.rsp = some 0x00000000#32 ∧
      t.wrIdx.toNat = (s.wrIdx.toNat + 1) % s.cfg.n ∧
      t.toBlockState =
        { s.toBlockState with
          phA := s.phA + s.lfoAInc
          phB := s.phB + s.lfoBInc
          wrIdx := t.wrIdx }

/-- 60_exceptions.md R189: a NaN in a filter memory reaches every memory after it and Y_OUT in the STEP that
finds it, and stays: TA_Y0 and TB_Y0 keep it, DC_X1 hands it to DC_Y1, and DC_Y1 keeps it. The STEP sets
STATUS.NONFINITE, and in Forward and Freeze a TICK carries the NaN to FB. -/
def Obligations.NaNPersists : Prop :=
  ∀ s : State, s.wrIdx.toNat < s.cfg.n →
    ∃ t u, exec .step s = .next t ∧ exec .tick s = .next u ∧
      (f32IsNaN s.taY0 = true → IsQuietNaN t.taY0 ∧ IsQuietNaN t.tbY0 ∧ IsQuietNaN t.dcX1) ∧
      (f32IsNaN s.tbY0 = true → IsQuietNaN t.tbY0 ∧ IsQuietNaN t.dcX1) ∧
      (f32IsNaN s.taY0 = true ∨ f32IsNaN s.tbY0 = true ∨ f32IsNaN s.dcX1 = true ∨
          f32IsNaN s.dcY1 = true →
        IsQuietNaN t.dcY1 ∧ IsQuietNaN t.yOut ∧ t.status = s.status ||| 0b001#3 ∧
          (s.mode ≠ .reverse → IsQuietNaN u.fb ∧ u.status = s.status ||| 0b001#3))

/-- 60_exceptions.md R189 and 46_tape_head_step.md R159: an infinite input is stored as +-1.0, a NaN input is
stored as a NaN, and either sets STATUS.NONFINITE. -/
def Obligations.NonfiniteInput : Prop :=
  ∀ s : State, s.cfg.legal = true → s.wrIdx.toNat < s.cfg.n →
    Memory.wf 0x00000000#32 s.cfg.n s.dl = true → s.mode ≠ .freeze →
    ∃ t, exec .step s = .next t ∧
      (s.xIn = 0x7F800000#32 → f32Finite s.fb = true →
        delayWord t.toBlockState s.wrIdx.toNat = 0x3F800000#32 ∧ t.status = s.status ||| 0b001#3) ∧
      (s.xIn = 0xFF800000#32 → f32Finite s.fb = true →
        delayWord t.toBlockState s.wrIdx.toNat = 0xBF800000#32 ∧ t.status = s.status ||| 0b001#3) ∧
      (f32IsNaN s.xIn = true → IsQuietNaN (delayWord t.toBlockState s.wrIdx.toNat) ∧
        t.status = s.status ||| 0b001#3)

/-- 43_saturator_limiter.md R131: whatever the state, the word a STEP writes to DL is a NaN or lies in
[-1, 1], and Y_OUT is a NaN or lies in [-2, 2]; so for TICK. -/
def Obligations.OutputBounded : Prop :=
  ∀ s : State, s.cfg.legal = true → s.wrIdx.toNat < s.cfg.n →
    Memory.wf 0x00000000#32 s.cfg.n s.dl = true →
    (∃ t, exec .step s = .next t ∧
      (f32IsNaN (delayWord t.toBlockState s.wrIdx.toNat) = true ∨
        Within 0x3F800000#32 (delayWord t.toBlockState s.wrIdx.toNat)) ∧
      (f32IsNaN t.yOut = true ∨ Within 0x40000000#32 t.yOut)) ∧
    (∃ t, exec .tick s = .next t ∧ (f32IsNaN t.yOut = true ∨ Within 0x40000000#32 t.yOut))

/-- 46_tape_head_step.md R167: the first STEP after reset with X_IN = 1.0, and the STEP that reads the
stored word back (the eighth, here on a state placed before it). -/
def Obligations.FirstStepExample : Prop :=
  (∃ t, exec .step { State.reset with xIn := 0x3F800000#32 } = .next t ∧
    t.phA = 0x00008BCF#32 ∧ t.phB = 0x0004C757#32 ∧ t.dl = [(0, 0x3F6233FE#32)] ∧ t.wrIdx = 1#32 ∧
    t.curDelay = 0x41000000#32 ∧ t.taY0 = 0x00000000#32 ∧ t.tbY0 = 0x00000000#32 ∧
    t.dcX1 = 0x00000000#32 ∧ t.dcY1 = 0x00000000#32 ∧ t.yOut = 0x00000000#32 ∧ t.status = 0#3 ∧
    t.rsp = some 0x00000000#32) ∧
  (∃ t, exec .step { State.reset with dl := [(0, 0x3F6233FE#32)], wrIdx := 7#32 } = .next t ∧
    t.taY0 = 0x3F2B605E#32 ∧ t.dcX1 = 0xBF28234F#32 ∧ t.yOut = 0xBF28234F#32 ∧
    t.rsp = some 0xBF28234F#32)

/-! ### The functions of the pipeline in binary32 (41 to 44) -/

/-- 43_saturator_limiter.md R126 (a) to (d): `sat` bounds, keeps both zeros, is odd and lets a NaN
through. -/
def Obligations.SaturatorProperties : Prop :=
  ∀ (k : Nat) (u : F32),
    (f32IsNaN u = false → Within 0x3F800000#32 (sat (f32Num k) u) ∧
      sat (f32Num k) (f32Neg u) = f32Neg (sat (f32Num k) u)) ∧
    (f32IsNaN u = true → IsQuietNaN (sat (f32Num k) u)) ∧
    sat (f32Num k) 0x00000000#32 = 0x00000000#32 ∧ sat (f32Num k) 0x80000000#32 = 0x80000000#32

/-- 43_saturator_limiter.md R129: `lim` is the identity on [-1, 1], is odd, is bounded by 2, never
decreases, lets a NaN through, and gives 1.5 at 2. -/
def Obligations.LimiterProperties : Prop :=
  ∀ (k : Nat) (v : F32),
    (Within 0x3F800000#32 v → lim (f32Num k) v = v) ∧
    (f32IsNaN v = false → Within 0x40000000#32 (lim (f32Num k) v) ∧
      lim (f32Num k) (f32Neg v) = f32Neg (lim (f32Num k) v)) ∧
    (∀ w, f32Le v w = true → f32Le (lim (f32Num k) v) (lim (f32Num k) w) = true) ∧
    (f32IsNaN v = true → lim (f32Num k) v = v) ∧
    lim (f32Num k) 0x40000000#32 = 0x3FC00000#32 ∧ lim (f32Num k) 0x3F800001#32 = 0x3F800001#32 ∧
    lim (f32Num k) 0x7F800000#32 = 0x40000000#32

/-- Values of the functions: 43_saturator_limiter.md R127 and R130 (`sat`, `lim`), 44_flutter_modulator.md
R141 and R139 (the waveforms, the mix, one whole offset), 42_tone_filter_chain.md R116 (the coefficient at
the default rate). -/
def Obligations.FunctionValues : Prop :=
  (sat (f32Num 0) 0x3F000000#32 = 0x3EEE7EE8#32 ∧
    sat (f32Num 0) 0x3F800000#32 = 0x3F471C72#32 ∧
    sat (f32Num 0) 0xBF800000#32 = 0xBF471C72#32 ∧
    sat (f32Num 0) 0x3FA66666#32 = 0x3F6233FE#32 ∧
    sat (f32Num 0) 0x40000000#32 = 0x3F7BEFBF#32 ∧
    sat (f32Num 0) 0x40200000#32 = 0x3F7F9D99#32 ∧
    sat (f32Num 0) 0x403FFFFF#32 = 0x3F800000#32 ∧
    sat (f32Num 0) 0x40400000#32 = 0x3F800000#32 ∧
    sat (f32Num 0) 0x40800000#32 = 0x3F800000#32 ∧
    sat (f32Num 0) 0x7F800000#32 = 0x3F800000#32 ∧
    sat (f32Num 0) 0xFF800000#32 = 0xBF800000#32) ∧
  (lim (f32Num 0) 0x3F000000#32 = 0x3F000000#32 ∧
    lim (f32Num 0) 0x3F800001#32 = 0x3F800001#32 ∧
    lim (f32Num 0) 0x3FA00000#32 = 0x3F99999A#32 ∧
    lim (f32Num 0) 0x3FC00000#32 = 0x3FAAAAAA#32 ∧
    lim (f32Num 0) 0x40000000#32 = 0x3FC00000#32 ∧
    lim (f32Num 0) 0xC0000000#32 = 0xBFC00000#32 ∧
    lim (f32Num 0) 0x40400000#32 = 0x3FD55555#32 ∧
    lim (f32Num 0) 0x41200000#32 = 0x3FF33333#32 ∧
    lim (f32Num 0) 0x43C80000#32 = 0x3FFFAE14#32 ∧
    lim (f32Num 0) 0x7F7FFFFF#32 = 0x40000000#32 ∧
    lim (f32Num 0) 0x7F800000#32 = 0x40000000#32) ∧
  (wavePar (f32Num 0) 0x00000000#32 = 0x00000000#32 ∧ waveTri (f32Num 0) 0x00000000#32 = 0x00000000#32 ∧
    wavePar (f32Num 0) 0x000000FF#32 = 0x00000000#32 ∧ waveTri (f32Num 0) 0x000000FF#32 = 0x00000000#32 ∧
    wavePar (f32Num 0) 0x10000000#32 = 0x3EE00000#32 ∧ waveTri (f32Num 0) 0x10000000#32 = 0x3E800000#32 ∧
    wavePar (f32Num 0) 0x20000000#32 = 0x3F400000#32 ∧ waveTri (f32Num 0) 0x20000000#32 = 0x3F000000#32 ∧
    wavePar (f32Num 0) 0x40000000#32 = 0x3F800000#32 ∧ waveTri (f32Num 0) 0x40000000#32 = 0x3F800000#32 ∧
    wavePar (f32Num 0) 0x80000000#32 = 0x80000000#32 ∧ waveTri (f32Num 0) 0x80000000#32 = 0x00000000#32 ∧
    wavePar (f32Num 0) 0xA0000000#32 = 0xBF400000#32 ∧ waveTri (f32Num 0) 0xA0000000#32 = 0xBF000000#32 ∧
    wavePar (f32Num 0) 0xC0000000#32 = 0xBF800000#32 ∧ waveTri (f32Num 0) 0xC0000000#32 = 0xBF800000#32 ∧
    wavePar (f32Num 0) 0xFFFFFF00#32 = 0xB4FFFFFE#32 ∧ waveTri (f32Num 0) 0xFFFFFF00#32 = 0xB4800000#32) ∧
  flutterMix (f32Num 0) 0x3F800000#32 0xBF800000#32 = 0x3EAAAAAB#32 ∧
  flutterMix (f32Num 0) 0x3F400000#32 0x3F000000#32 = 0x3F2AAAAB#32 ∧
  (flutter (f32Num 0)
    { State.reset.toBlockState with
      phA := 0x3FFF0000#32, phB := 0x3FFF0000#32, lfoAInc := 0x00010000#32, lfoBInc := 0x00010000#32,
      flutDepth := 0x42700000#32 }).2 = 0x42700000#32 ∧
  coef (f32Num 0) Config.default 0x00000000#32 = 0x00000000#32 ∧
  coef (f32Num 0) Config.default 0x43130000#32 = 0x3C9ACDF2#32 ∧
  coef (f32Num 0) Config.default 0x46BA6000#32 = 0x3F41F383#32

/-- 41_delay_line.md R103: between legal delays one slew step with the block's own coefficient never leaves
the interval from the old value to the target, and stands still when it has arrived. -/
def Obligations.SlewNeverOvershoots : Prop :=
  ∀ (k : Nat) (c : Config) (cur tgt : F32), c.legal = true →
    InRange (dLo builtNum) (dHi builtNum c) cur → InRange (dLo builtNum) (dHi builtNum c) tgt →
    (f32Le cur tgt = true → InRange cur tgt (slew (f32Num k) (kSlew (f32Num k) c) cur tgt)) ∧
    (f32Lt tgt cur = true → InRange tgt cur (slew (f32Num k) (kSlew (f32Num k) c) cur tgt)) ∧
    slew (f32Num k) (kSlew (f32Num k) c) cur cur = cur

/-- 41_delay_line.md R108, R109: with samples in [-1, 1] the interpolator is exact at an integer offset, bit
for bit but for a negative zero, and finite at every fraction in [0, 1). -/
def Obligations.HermiteExactAndFinite : Prop :=
  ∀ (k : Nat) (xm1 x0 x1 x2 f : F32), Within 0x3F800000#32 xm1 → Within 0x3F800000#32 x0 →
    Within 0x3F800000#32 x1 → Within 0x3F800000#32 x2 →
    f32Eq (hermite (f32Num k) xm1 x0 x1 x2 0x00000000#32) x0 = true ∧
    (x0 ≠ 0x80000000#32 → hermite (f32Num k) xm1 x0 x1 x2 0x00000000#32 = x0) ∧
    (f32Le 0x00000000#32 f = true → f32Lt f 0x3F800000#32 = true →
      f32Finite (hermite (f32Num k) xm1 x0 x1 x2 f) = true)

/-- 44_flutter_modulator.md R140 (a): the waveforms and their mix lie in [-1, 1], and the offset is at most
the depth. -/
def Obligations.FlutterBounded : Prop :=
  ∀ k : Nat,
    (∀ ph : Word, Within 0x3F800000#32 (wavePar (f32Num k) ph) ∧
      Within 0x3F800000#32 (waveTri (f32Num k) ph)) ∧
    (∀ a b : F32, Within 0x3F800000#32 a → Within 0x3F800000#32 b →
      Within 0x3F800000#32 (flutterMix (f32Num k) a b)) ∧
    (∀ b : BlockState F32, InRange 0x00000000#32 0x42700000#32 b.flutDepth →
      Within b.flutDepth (flutterOffset (f32Num k) b))

/-! ### Numerics (40_numerics.md) -/

/-- 40_numerics.md R75: the number a finite pattern denotes. -/
def Obligations.NumberFormat : Prop :=
  ∀ b : F32,
    (1 ≤ f32Exponent b → f32Exponent b ≤ 254 →
      f32Value b = (if b.getLsbD 31 then -1 else 1) * (2 : ℚ) ^ ((f32Exponent b : ℤ) - 127) *
        (1 + (b.toNat % 2 ^ 23 : ℕ) / 2 ^ 23)) ∧
    (f32Exponent b = 0 →
      f32Value b = (if b.getLsbD 31 then -1 else 1) * (2 : ℚ) ^ (-126 : ℤ) *
        ((b.toNat % 2 ^ 23 : ℕ) / 2 ^ 23)) ∧
    f32Exponent b = (b.extractLsb' 23 8).toNat

/-- 40_numerics.md R78, R85: each primitive on finite operands is the exact result rounded once, to nearest
and ties to even, subnormals kept; `fneg` flips bit 31 of every operand. -/
def Obligations.PrimitivesRoundOnce : Prop :=
  (∀ (k : Nat) (a b : F32), f32Finite a = true → f32Finite b = true →
    RoundsTo (f32Value a + f32Value b) (f32Add k a b) ∧
    RoundsTo (f32Value a - f32Value b) (f32Sub k a b) ∧
    RoundsTo (f32Value a * f32Value b) (f32Mul k a b) ∧
    (f32Value b ≠ 0 → RoundsTo (f32Value a / f32Value b) (f32Div k a b))) ∧
  (∀ a : F32, f32Neg a = a ^^^ 0x80000000#32)

/-- 40_numerics.md R79: the special operands. A NaN is a quiet NaN of any pattern. -/
def Obligations.SpecialOperands : Prop :=
  ∀ (k : Nat) (a b : F32),
    (f32IsNaN a = true ∨ f32IsNaN b = true → IsQuietNaN (f32Add k a b) ∧ IsQuietNaN (f32Sub k a b) ∧
      IsQuietNaN (f32Mul k a b) ∧ IsQuietNaN (f32Div k a b)) ∧
    (f32IsInf a = true → f32IsInf b = true →
      (f32Sign a ≠ f32Sign b → IsQuietNaN (f32Add k a b)) ∧
      (f32Sign a = f32Sign b → IsQuietNaN (f32Sub k a b)) ∧ IsQuietNaN (f32Div k a b)) ∧
    (f32IsZero a = true → f32IsInf b = true → IsQuietNaN (f32Mul k a b) ∧ IsQuietNaN (f32Mul k b a)) ∧
    (f32IsZero a = true → f32IsZero b = true → IsQuietNaN (f32Div k a b)) ∧
    (f32IsInf a = true → f32Finite b = true →
      f32Add k a b = a ∧ f32Add k b a = a ∧ f32Sub k a b = a ∧ f32Sub k b a = f32Neg a ∧
      f32Div k a b = f32Inf (f32Sign a != f32Sign b) ∧
      f32Div k b a = f32Pack (f32Sign b != f32Sign a) 0) ∧
    (f32IsInf a = true → f32IsNaN b = false → f32IsZero b = false →
      f32Mul k a b = f32Inf (f32Sign a != f32Sign b) ∧
      f32Mul k b a = f32Inf (f32Sign b != f32Sign a)) ∧
    (f32Finite a = true → f32IsZero a = false → f32IsZero b = true →
      f32Div k a b = f32Inf (f32Sign a != f32Sign b) ∧ f32Add k a b = a) ∧
    (f32Finite a = true → f32IsZero a = false → f32Add k a (f32Neg a) = 0x00000000#32) ∧
    (f32IsZero a = true → f32Finite b = true →
      f32Mul k a b = f32Pack (f32Sign a != f32Sign b) 0 ∧
      f32Mul k b a = f32Pack (f32Sign b != f32Sign a) 0 ∧
      (f32IsZero b = false → f32Div k a b = f32Pack (f32Sign a != f32Sign b) 0)) ∧
    f32Add k 0x00000000#32 0x80000000#32 = 0x00000000#32 ∧
    f32Add k 0x80000000#32 0x80000000#32 = 0x80000000#32

/-- 40_numerics.md R80: the comparisons. -/
def Obligations.Comparisons : Prop :=
  ∀ a b : F32,
    (f32IsNaN a = true ∨ f32IsNaN b = true →
      f32Lt a b = false ∧ f32Le a b = false ∧ f32Eq a b = false) ∧
    (f32Finite a = true → f32Finite b = true →
      (f32Lt a b = true ↔ f32Value a < f32Value b) ∧ (f32Le a b = true ↔ f32Value a ≤ f32Value b) ∧
      (f32Eq a b = true ↔ f32Value a = f32Value b)) ∧
    (f32Finite a = true →
      f32Lt a 0x7F800000#32 = true ∧ f32Le a 0x7F800000#32 = true ∧
      f32Lt 0x7F800000#32 a = false ∧ f32Le 0x7F800000#32 a = false ∧
      f32Lt 0xFF800000#32 a = true ∧ f32Le 0xFF800000#32 a = true ∧
      f32Lt a 0xFF800000#32 = false ∧ f32Le a 0xFF800000#32 = false ∧
      f32Eq a 0x7F800000#32 = false ∧ f32Eq 0x7F800000#32 a = false ∧
      f32Eq a 0xFF800000#32 = false ∧ f32Eq 0xFF800000#32 a = false) ∧
    (f32IsInf a = true → f32Lt a a = false ∧ f32Le a a = true ∧ f32Eq a a = true) ∧
    f32Lt 0xFF800000#32 0x7F800000#32 = true ∧ f32Le 0xFF800000#32 0x7F800000#32 = true ∧
    f32Lt 0x7F800000#32 0xFF800000#32 = false ∧ f32Le 0x7F800000#32 0xFF800000#32 = false ∧
    f32Eq 0x7F800000#32 0xFF800000#32 = false ∧ f32Eq 0xFF800000#32 0x7F800000#32 = false ∧
    f32Eq 0x80000000#32 0x00000000#32 = true

/-- 40_numerics.md R81: `finite`. -/
def Obligations.FiniteTest : Prop :=
  ∀ (k : Nat) (v : F32),
    ((f32Num k).finite v = true ↔ v.extractLsb' 23 8 ≠ 255#8) ∧
    ((f32Num k).finite v = true ↔ f32IsNaN v = false ∧ v ≠ 0x7F800000#32 ∧ v ≠ 0xFF800000#32)

/-- 40_numerics.md R82 and the property NUM-FRAC of R91: `floor_nat` and `of_nat`, and the exact fractional
part. -/
def Obligations.FloorAndFraction : Prop :=
  (∀ (k m : Nat), m ≤ 2 ^ 24 → f32Value ((f32Num k).ofNat m) = (m : ℚ) ∧
    f32Finite ((f32Num k).ofNat m) = true) ∧
  (∀ (k : Nat) (v : F32), f32Finite v = true → f32Sign v = false → f32Value v < 2 ^ 24 →
    ((f32Num k).floorNat v : ℚ) ≤ f32Value v ∧ f32Value v < (f32Num k).floorNat v + 1 ∧
    f32Value ((f32Num k).fsub v ((f32Num k).ofNat ((f32Num k).floorNat v))) =
      f32Value v - (f32Num k).floorNat v)

/-- 40_numerics.md R83: `frac24` is exact and lies in [0, 1). -/
def Obligations.Frac24Exact : Prop :=
  ∀ (k m : Nat), m < 2 ^ 24 → f32Finite ((f32Num k).frac24 m) = true ∧
    f32Value ((f32Num k).frac24 m) = (m : ℚ) / 2 ^ 24 ∧
    0 ≤ f32Value ((f32Num k).frac24 m) ∧ f32Value ((f32Num k).frac24 m) < 1

/-- The properties NUM-ROUND-MONO and NUM-SYM of 40_numerics.md R91: the four primitives are one rounding of
the exact result. Whichever two of them are compared, in whichever draws, a greater exact result never
gives a lesser rounded one (so equal exact results give equal ones), opposite exact results give opposite
ones, and what is representable is not changed. -/
def Obligations.RoundingIsMonotone : Prop :=
  (∀ (p q : ℚ) (r s : F32), PrimitiveResult p r → PrimitiveResult q s → p ≤ q → f32Le r s = true) ∧
  (∀ (p : ℚ) (r s : F32), PrimitiveResult p r → PrimitiveResult (-p) s → f32Eq s (f32Neg r) = true) ∧
  (∀ (r v : F32), f32Finite v = true → PrimitiveResult (f32Value v) r → f32Eq r v = true)

/-- 00_scope.md R6, 40_numerics.md R87: the named constants as patterns. -/
def Obligations.ConstantPatterns : Prop :=
  ∀ k : Nat,
    drive (f32Num k) = 0x3FA66666#32 ∧ satEdge (f32Num k) = 0x40400000#32 ∧
    hpHz (f32Num k) = 0x43130000#32 ∧ k159 (f32Num k) = 0x3E22D0E5#32 ∧
    fMax (f32Num k) = 0x3EFE76C9#32 ∧ dcR (f32Num k) = 0x3F7EB852#32 ∧
    fbMax (f32Num k) = 0x3F99999A#32 ∧ freezeCorr (f32Num k) = 0x3F59999A#32 ∧
    flutMax (f32Num k) = 0x42700000#32 ∧ dLo (f32Num k) = 0x40000000#32 ∧
    sampleRate (f32Num k) Config.default = 0x473B8000#32 ∧
    kSlew (f32Num k) Config.default = 0x39800000#32 ∧ hzMax (f32Num k) Config.default = 0x46BA6000#32 ∧
    gB (f32Num k) Config.default = 0x3C9ACDF2#32

/-! ### The idealised instantiation REAL (40_numerics.md R77) -/

/-- 41_delay_line.md R106, R109: in REAL the interpolator is the Catmull-Rom cubic, and at most 5/4 on
samples in [-1, 1]. -/
def Obligations.RealHermite : Prop :=
  ∀ xm1 x0 x1 x2 f : ℚ,
    hermite realNum xm1 x0 x1 x2 f =
      x0 + (x1 - xm1) / 2 * f + (xm1 - 5 / 2 * x0 + 2 * x1 - 1 / 2 * x2) * f ^ 2 +
        ((x2 - xm1) / 2 + 3 / 2 * (x0 - x1)) * f ^ 3 ∧
    hermite realNum xm1 x0 x1 x2 0 = x0 ∧ hermite realNum xm1 x0 x1 x2 1 = x1 ∧
    (|xm1| ≤ 1 → |x0| ≤ 1 → |x1| ≤ 1 → |x2| ≤ 1 → 0 ≤ f → f ≤ 1 →
      |hermite realNum xm1 x0 x1 x2 f| ≤ 5 / 4)

/-- 43_saturator_limiter.md R125, R126 (g), R128, R129: in REAL the saturator is the rational function, at
most 1, non-decreasing and compressing; the limiter is the identity on [-1, 1] and stays below 2. -/
def Obligations.RealSaturatorAndLimiter : Prop :=
  (∀ u : ℚ, |u| < 3 → sat realNum u = u * (27 + u ^ 2) / (27 + 9 * u ^ 2)) ∧
  (∀ u : ℚ, |sat realNum u| ≤ 1 ∧ sat realNum (-u) = -sat realNum u ∧
    (u ≠ 0 → |sat realNum u| < |u|)) ∧
  (∀ u v : ℚ, u ≤ v → sat realNum u ≤ sat realNum v) ∧
  (∀ v : ℚ, (|v| ≤ 1 → lim realNum v = v) ∧ (1 < v → lim realNum v = 2 - 1 / v) ∧
    (v < -1 → lim realNum v = -2 - 1 / v) ∧ |lim realNum v| < 2)

/-- 42_tone_filter_chain.md R119, R120, R121: in REAL a one-pole stage is a convex combination and bounded
by its input's bound, the high-pass output by twice it; the DC blocker, on inputs of magnitude at most M,
keeps its bound 400 M. -/
def Obligations.RealFilterBounds : Prop :=
  (∀ y0 g x : ℚ, (onepole realNum y0 g x false).1 = (1 - g) * y0 + g * x ∧
    (onepole realNum y0 g x false).2 = (1 - g) * y0 + g * x ∧
    (onepole realNum y0 g x true).1 = (1 - g) * y0 + g * x ∧
    (onepole realNum y0 g x true).2 = (1 - g) * (y0 - x)) ∧
  (∀ M y0 g x : ℚ, 0 ≤ g → g < 1 → |y0| ≤ M → |x| ≤ M →
    |(onepole realNum y0 g x false).1| ≤ M ∧ |(onepole realNum y0 g x true).1| ≤ M ∧
    |(onepole realNum y0 g x false).2| ≤ M ∧ |(onepole realNum y0 g x true).2| ≤ 2 * M) ∧
  (∀ (M x : ℚ) (b : BlockState ℚ), |b.dcX1| ≤ M → |b.dcY1| ≤ 400 * M → |x| ≤ M →
    (dcBlock realNum b x).2 = x - b.dcX1 + 995 / 1000 * b.dcY1 ∧
    (dcBlock realNum b x).1 = { b with dcX1 := x, dcY1 := (dcBlock realNum b x).2 } ∧
    |(dcBlock realNum b x).2| ≤ 400 * M)

/-- 10_state.md R15 and 40_numerics.md R84: WR and RD in REAL. An F32 register takes the number a finite
pattern denotes, legalised where the register says, and RD gives the pattern back, a negative zero as
+0.0 (log entry 21); a NaN or an infinity cannot be written to one; a u32 register takes and gives raw
bits, whatever they are. -/
def Obligations.RealRegisterAccess : Prop :=
  ∀ (c : Config) (b : BlockState ℚ) (d : Word),
    (f32Finite d = true →
      realExec c (.wr 0x00#8 d) b = some ({ b with xIn := f32Value d }, 0x00000000#32) ∧
      realExec c (.rd 0x00#8) { b with xIn := f32Value d } = some ({ b with xIn := f32Value d },
        if d = 0x80000000#32 then 0x00000000#32 else d) ∧
      (c.legal = true → realExec c (.wr 0x03#8 d) b =
        some ({ b with delayTarget := min (max (f32Value d) 2) ((c.n : ℚ) - 2) }, 0x00000000#32)) ∧
      realExec c (.wr 0x05#8 d) b =
        some ({ b with fbGain := min (max (f32Value d) 0) (12 / 10) }, 0x00000000#32)) ∧
    (f32Finite d = false → ∀ reg : RegIdx, reg.toNat ≤ 6 → realExec c (.wr reg d) b = none) ∧
    realExec c (.wr 0x0B#8 d) b = some ({ b with phA := d }, 0x00000000#32) ∧
    realExec c (.rd 0x0B#8) { b with phA := d } = some ({ b with phA := d }, d) ∧
    (∀ reg : RegIdx, ReadOnlyIndex reg ∨ UnmappedIndex reg → realExec c (.wr reg d) b =
      some ({ b with status := b.status ||| 0b100#3 }, 0x00000000#32)) ∧
    (∀ reg : RegIdx, UnmappedIndex reg → realExec c (.rd reg) b =
      some ({ b with status := b.status ||| 0b100#3 }, 0x00000000#32))

/-- 41_delay_line.md R103: in REAL a slew step closes the gap by the factor 1 - K_SLEW, and no guard ever
acts. -/
def Obligations.RealSlewGeometric : Prop :=
  ∀ k cur tgt : ℚ, 0 < k → k < 1 →
    slew realNum k cur tgt = cur + k * (tgt - cur) ∧
    tgt - slew realNum k cur tgt = (1 - k) * (tgt - cur) ∧
    (cur < tgt → cur < slew realNum k cur tgt ∧ slew realNum k cur tgt < tgt) ∧
    (tgt < cur → tgt < slew realNum k cur tgt ∧ slew realNum k cur tgt < cur)

/-! ### Invariants (10_state.md R36, 60_exceptions.md R185, R190) -/

/-- 10_state.md R35, R36: the reset state is legal, for every legal configuration whose rate has a finite
binary32; and within the contract when the rate is at least 1 Hz (log entry 20). -/
def Obligations.ResetIsLegal : Prop :=
  (∀ c : Config, c.legal = true → f32Finite (f32Lit c.fsNum c.fsDen) = true →
    LegalState (State.resetWith c)) ∧
  (∀ c : Config, c.legal = true → f32Finite (f32Lit c.fsNum c.fsDen) = true →
    f32Le 0x3F800000#32 (f32Lit c.fsNum c.fsDen) = true → ContractState (State.resetWith c)) ∧
  ContractState State.reset

/-- 10_state.md R36 (a) to (e): every step of a legal state, whatever the host presents, NaN and infinity
included, leads to a legal state; and DL keeps its canonical form. -/
def Obligations.LegalStateIsInvariant : Prop :=
  ∀ s t : State, LegalState s → step s = .next t → LegalState t

/-- 60_exceptions.md R185, 30_encoding.md R57: a legal state never stops. Every step has a next state, and
so has every run, with as many steps and whatever events presented. -/
def Obligations.LegalStateNeverStops : Prop :=
  (∀ s : State, LegalState s → ∃ t, step s = .next t) ∧
  (∀ (s : State) (events : List PortEvent) (k : Nat), LegalState s →
    ∃ t, runSteps k (s.presented events) = .next t ∧ LegalState t)

/-- 60_exceptions.md R190, 10_state.md R36 (f): from a state within the contract, a command whose operands
are finite leads to a state within the contract: every word of DL in [-1, 1], |Y_OUT| <= 2, the filter
memories bounded; it does not set STATUS.NONFINITE, and FB as ROUTE and TICK write it is finite, within
2.4 outside Reverse. The bounds of the filter memories and the rate are the model's (log entry 20). -/
def Obligations.ContractIsInvariant : Prop :=
  ∀ (i : Instr) (s : State), ContractState s → OperandsFinite i s →
    ∃ t, exec i s = .next t ∧ ContractState t ∧
      (flagIsSet .nonfinite s.status = false → flagIsSet .nonfinite t.status = false) ∧
      (i = .route ∨ i = .tick → f32Finite t.fb = true ∧
        (s.mode ≠ .reverse → Within 0x4019999A#32 t.fb))
end

