-- ==== Sys2Proof/Laws/Bytes.lean ====
section
/-! SUPPORT. The serialisation of responses (20_memory.md R43): the four bytes give the word back. -/

namespace Sys2Proof

theorem responseOfBytes_bytesOfResponse (w : Word) (rest : List Byte) :
    responseOfBytes (bytesOfResponse w ++ rest) = some (w, rest) := by
  have hw : w.extractLsb' 24 8 ++ w.extractLsb' 16 8 ++ w.extractLsb' 8 8 ++ w.extractLsb' 0 8 = w := by
    apply BitVec.eq_of_toNat_eq
    have h := w.isLt
    have lt (k : Nat) : (w.extractLsb' k 8).toNat < 2 ^ 8 := (w.extractLsb' k 8).isLt
    rw [BitVec.toNat_append, BitVec.toNat_append, BitVec.toNat_append,
      ← Nat.shiftLeft_add_eq_or_of_lt (lt 0), ← Nat.shiftLeft_add_eq_or_of_lt (lt 8),
      ← Nat.shiftLeft_add_eq_or_of_lt (lt 16)]
    simp only [BitVec.extractLsb'_toNat, Nat.shiftLeft_eq, Nat.shiftRight_eq_div_pow]
    omega
  simp [responseOfBytes, bytesOfResponse, hw]

theorem responseOfBytes_of_short {bs : List Byte} (h : bs.length < 4) : responseOfBytes bs = none := by
  match bs, h with
  | [], _ => rfl
  | [_], _ => rfl
  | [_, _], _ => rfl
  | [_, _, _], _ => rfl
  | _ :: _ :: _ :: _ :: _, h => simp at h; omega

end Sys2Proof
end

