-- ==== Sys2Proof/Laws/Float32.lean ====
section
/-! SUPPORT. Small lemmas of the binary32 operations: the fields of a packed pattern, the quiet NaNs, when a
primitive draws, and the constants as patterns (00_scope.md R6, 40_numerics.md R87). -/

namespace Sys2Proof.Machine

theorem f32Pack_toNat (n : Bool) {low : Nat} (h : low < 2147483648) :
    (f32Pack n low).toNat = (if n then 2147483648 else 0) + low := by
  unfold f32Pack
  rw [BitVec.toNat_ofNat]
  cases n <;> simp <;> omega

theorem f32Sign_pack (n : Bool) {low : Nat} (h : low < 2147483648) : f32Sign (f32Pack n low) = n := by
  unfold f32Sign
  rw [f32Pack_toNat n h]
  cases n <;> simp <;> omega

theorem f32Exponent_pack (n : Bool) {low : Nat} (h : low < 2147483648) :
    f32Exponent (f32Pack n low) = low / 8388608 := by
  unfold f32Exponent
  rw [f32Pack_toNat n h]
  cases n <;> simp <;> omega

theorem f32Fraction_pack (n : Bool) {low : Nat} (h : low < 2147483648) :
    f32Fraction (f32Pack n low) = low % 8388608 := by
  unfold f32Fraction
  rw [f32Pack_toNat n h]
  cases n <;> simp <;> omega

/-- Every pattern is the packing of its sign and its low bits. -/
theorem f32Pack_fields (a : F32) : f32Pack (f32Sign a) (a.toNat % 2147483648) = a := by
  apply BitVec.eq_of_toNat_eq
  rw [f32Pack_toNat _ (Nat.mod_lt _ (by decide))]
  unfold f32Sign
  have := a.isLt
  by_cases h : 2147483648 ≤ a.toNat <;> simp [h] <;> omega

theorem f32Low_lt (a : F32) : a.toNat % 2147483648 < 2147483648 := Nat.mod_lt _ (by decide)

@[simp] theorem f32Sign_neg (a : F32) : f32Sign (f32Neg a) = !f32Sign a :=
  f32Sign_pack _ (f32Low_lt a)

@[simp] theorem f32Exponent_neg (a : F32) : f32Exponent (f32Neg a) = f32Exponent a := by
  rw [f32Neg, f32Exponent_pack _ (f32Low_lt a)]
  unfold f32Exponent
  omega

@[simp] theorem f32Fraction_neg (a : F32) : f32Fraction (f32Neg a) = f32Fraction a := by
  rw [f32Neg, f32Fraction_pack _ (f32Low_lt a)]
  unfold f32Fraction
  omega

@[simp] theorem f32Magnitude_neg (a : F32) : f32Magnitude (f32Neg a) = f32Magnitude a := by
  simp [f32Magnitude]

@[simp] theorem f32IsNaN_neg (a : F32) : f32IsNaN (f32Neg a) = f32IsNaN a := by
  simp [f32IsNaN]

@[simp] theorem f32IsInf_neg (a : F32) : f32IsInf (f32Neg a) = f32IsInf a := by
  simp [f32IsInf]

@[simp] theorem f32Finite_neg (a : F32) : f32Finite (f32Neg a) = f32Finite a := by
  simp [f32Finite]

@[simp] theorem f32Units_neg (a : F32) : f32Units (f32Neg a) = -f32Units a := by
  unfold f32Units
  cases h : f32Sign a <;> simp [h]

@[simp] theorem f32Neg_neg (a : F32) : f32Neg (f32Neg a) = a := by
  have hl : (f32Neg a).toNat % 2147483648 = a.toNat % 2147483648 := by
    rw [f32Neg, f32Pack_toNat _ (f32Low_lt a)]
    cases f32Sign a <;> simp
  calc f32Neg (f32Neg a) = f32Pack (!f32Sign (f32Neg a)) ((f32Neg a).toNat % 2147483648) := rfl
    _ = f32Pack (f32Sign a) (a.toNat % 2147483648) := by rw [hl]; simp
    _ = a := f32Pack_fields a

/-- Finite, infinite and NaN are the three classes. -/
theorem f32_class (a : F32) :
    (f32Finite a = true ∧ f32IsInf a = false ∧ f32IsNaN a = false) ∨
    (f32Finite a = false ∧ f32IsInf a = true ∧ f32IsNaN a = false) ∨
    (f32Finite a = false ∧ f32IsInf a = false ∧ f32IsNaN a = true) := by
  unfold f32Finite f32IsInf f32IsNaN
  by_cases h : f32Exponent a = 255 <;> by_cases h' : f32Fraction a = 0 <;> simp [h, h']

theorem f32IsNaN_of_finite {a : F32} (h : f32Finite a = true) : f32IsNaN a = false := by
  rcases f32_class a with h' | h' | h' <;> simp_all

theorem f32IsInf_of_finite {a : F32} (h : f32Finite a = true) : f32IsInf a = false := by
  rcases f32_class a with h' | h' | h' <;> simp_all

/-- Whatever the free value, a drawn NaN is one of the quiet NaNs. -/
theorem quietNaN_isQuiet (v : BitVec 23) : IsQuietNaN (quietNaN v) := by
  have hm : v.toNat % 4194304 < 4194304 := Nat.mod_lt _ (by decide)
  have hl : 0x7FC00000 + v.toNat % 4194304 < 2147483648 := by omega
  constructor
  · rw [quietNaN, f32Exponent_pack _ hl]
    omega
  · rw [quietNaN, f32Fraction_pack _ hl]
    omega

theorem IsQuietNaN.isNaN {a : F32} (h : IsQuietNaN a) : f32IsNaN a = true := by
  have : f32Fraction a ≠ 0 := by have := h.2; omega
  simp [f32IsNaN, h.1, this]

theorem drawNaN_isQuiet (k : Nat) (op : PrimOp) (a b : F32) : IsQuietNaN (drawNaN k op a b) :=
  quietNaN_isQuiet _

/-- What a primitive answers: a quiet NaN when an operand is a NaN or there is no number, else the
number. -/
theorem orNaN_cases (k : Nat) (op : PrimOp) (a b : F32) (r : Option F32) :
    (IsQuietNaN (orNaN k op a b r) ∧ (f32IsNaN a = true ∨ f32IsNaN b = true ∨ r = none)) ∨
    (f32IsNaN a = false ∧ f32IsNaN b = false ∧ r = some (orNaN k op a b r)) := by
  unfold orNaN
  cases ha : f32IsNaN a
  · cases hb : f32IsNaN b
    · cases r with
      | none => exact .inl ⟨drawNaN_isQuiet k op a b, .inr (.inr rfl)⟩
      | some v => exact .inr ⟨rfl, rfl, rfl⟩
    · exact .inl ⟨drawNaN_isQuiet k op a b, .inr (.inl rfl)⟩
  · exact .inl ⟨drawNaN_isQuiet k op a b, .inl rfl⟩

/-- On numbers that have a result the draw is not used. -/
theorem orNaN_of_some {k : Nat} {op : PrimOp} {a b v : F32} (ha : f32IsNaN a = false)
    (hb : f32IsNaN b = false) : orNaN k op a b (some v) = v := by
  simp [orNaN, ha, hb]

/-- A NaN operand gives a quiet NaN. -/
theorem orNaN_of_nan {k : Nat} {op : PrimOp} {a b : F32} {r : Option F32}
    (h : f32IsNaN a = true ∨ f32IsNaN b = true) : IsQuietNaN (orNaN k op a b r) := by
  rcases orNaN_cases k op a b r with h' | h'
  · exact h'.1
  · rcases h with h | h <;> simp_all

theorem f32Add_finite {k : Nat} {a b : F32} (ha : f32Finite a = true) (hb : f32Finite b = true) :
    f32Add k a b = f32AddFinite a b := by
  rw [f32Add, f32Sum, f32IsInf_of_finite ha, f32IsInf_of_finite hb]
  exact orNaN_of_some (f32IsNaN_of_finite ha) (f32IsNaN_of_finite hb)

theorem f32Sub_finite {k : Nat} {a b : F32} (ha : f32Finite a = true) (hb : f32Finite b = true) :
    f32Sub k a b = f32AddFinite a (f32Neg b) := by
  rw [f32Sub, f32Sum, f32IsInf_of_finite ha, f32IsInf_neg, f32IsInf_of_finite hb]
  exact orNaN_of_some (f32IsNaN_of_finite ha) (f32IsNaN_of_finite hb)

theorem f32Mul_finite {k : Nat} {a b : F32} (ha : f32Finite a = true) (hb : f32Finite b = true) :
    f32Mul k a b = f32Pack (f32Sign a != f32Sign b)
      (roundUnits (f32Magnitude a * f32Magnitude b) (2 ^ 149)) := by
  rw [f32Mul, f32Product, f32IsInf_of_finite ha, f32IsInf_of_finite hb]
  exact orNaN_of_some (f32IsNaN_of_finite ha) (f32IsNaN_of_finite hb)

theorem f32Div_finite {k : Nat} {a b : F32} (ha : f32Finite a = true) (hb : f32Finite b = true)
    (h0 : f32IsZero b = false) :
    f32Div k a b = f32Pack (f32Sign a != f32Sign b)
      (roundUnits (f32Magnitude a * 2 ^ 149) (f32Magnitude b)) := by
  rw [f32Div, f32Quotient, f32IsInf_of_finite ha, f32IsInf_of_finite hb, h0]
  exact orNaN_of_some (f32IsNaN_of_finite ha) (f32IsNaN_of_finite hb)

theorem roundUnits_le (p d : Nat) : roundUnits p d ≤ 0x7F800000 := by
  unfold roundUnits
  simp only
  split
  · exact Nat.le_refl _
  · exact Nat.min_le_right _ _

/-! The constants as patterns: the column "binary32" of 00_scope.md R6. The draw number plays no part. -/

@[simp] theorem zero_f32 (k : Nat) : zero (f32Num k) = 0x00000000#32 := by
  change f32Lit 0 1 = _; decide +kernel

@[simp] theorem dLo_f32 (k : Nat) : dLo (f32Num k) = 0x40000000#32 := by
  change f32Lit 2 1 = _; decide +kernel

@[simp] theorem drive_f32 (k : Nat) : drive (f32Num k) = 0x3FA66666#32 := by
  change f32Lit 13 10 = _; decide +kernel

@[simp] theorem satEdge_f32 (k : Nat) : satEdge (f32Num k) = 0x40400000#32 := by
  change f32Lit 3 1 = _; decide +kernel

@[simp] theorem hpHz_f32 (k : Nat) : hpHz (f32Num k) = 0x43130000#32 := by
  change f32Lit 147 1 = _; decide +kernel

@[simp] theorem k159_f32 (k : Nat) : k159 (f32Num k) = 0x3E22D0E5#32 := by
  change f32Lit 159 1000 = _; decide +kernel

@[simp] theorem fMax_f32 (k : Nat) : fMax (f32Num k) = 0x3EFE76C9#32 := by
  change f32Lit 497 1000 = _; decide +kernel

@[simp] theorem dcR_f32 (k : Nat) : dcR (f32Num k) = 0x3F7EB852#32 := by
  change f32Lit 995 1000 = _; decide +kernel

@[simp] theorem fbMax_f32 (k : Nat) : fbMax (f32Num k) = 0x3F99999A#32 := by
  change f32Lit 12 10 = _; decide +kernel

@[simp] theorem freezeCorr_f32 (k : Nat) : freezeCorr (f32Num k) = 0x3F59999A#32 := by
  change f32Lit 85 100 = _; decide +kernel

@[simp] theorem flutMax_f32 (k : Nat) : flutMax (f32Num k) = 0x42700000#32 := by
  change f32Lit 60 1 = _; decide +kernel

theorem builtNum_eq : builtNum = f32Num 0 := rfl

@[simp] theorem f32Num_fadd (k : Nat) : (f32Num k).fadd = f32Add k := rfl
@[simp] theorem f32Num_fsub (k : Nat) : (f32Num k).fsub = f32Sub k := rfl
@[simp] theorem f32Num_fmul (k : Nat) : (f32Num k).fmul = f32Mul k := rfl
@[simp] theorem f32Num_fdiv (k : Nat) : (f32Num k).fdiv = f32Div k := rfl
@[simp] theorem f32Num_fneg (k : Nat) : (f32Num k).fneg = f32Neg := rfl
@[simp] theorem f32Num_lt (k : Nat) : (f32Num k).lt = f32Lt := rfl
@[simp] theorem f32Num_le (k : Nat) : (f32Num k).le = f32Le := rfl
@[simp] theorem f32Num_finite (k : Nat) : (f32Num k).finite = f32Finite := rfl
@[simp] theorem f32Num_floorNat (k : Nat) : (f32Num k).floorNat = f32FloorNat := rfl
@[simp] theorem f32Num_lit (k : Nat) : (f32Num k).lit = f32Lit := rfl
@[simp] theorem f32Num_ofNat (k m : Nat) : (f32Num k).ofNat m = f32Lit m 1 := rfl
@[simp] theorem f32Num_frac24 (k m : Nat) : (f32Num k).frac24 m = f32Lit m 16777216 := rfl

end Sys2Proof.Machine
end

