-- ==== Sys2Proof/Laws/Memory.lean ====
section
/-! SUPPORT. The delay memory: a read after a write, every write keeps the canonical form, and equal reads
mean equal memories. -/

namespace Sys2Proof.Machine

variable {α : Type} [DecidableEq α] {z : α} {capacity : Nat}

theorem Memory.wfFrom_mono {low low' : Nat} {m : Memory α} (h : low' ≤ low)
    (w : Memory.wfFrom z capacity low m = true) : Memory.wfFrom z capacity low' m = true := by
  cases m with
  | nil => rfl
  | cons p rest =>
    simp only [Memory.wfFrom, Bool.and_eq_true, decide_eq_true_eq] at w ⊢
    exact ⟨⟨⟨h.trans w.1.1.1, w.1.1.2⟩, w.1.2⟩, w.2⟩

/-- Below the first listed address every word is the unlisted value. -/
theorem Memory.read_below {low : Nat} {m : Memory α} {a : Nat}
    (w : Memory.wfFrom z capacity low m = true) (h : a < low) : Memory.read z m a = z := by
  induction m generalizing low with
  | nil => rfl
  | cons p rest ih =>
    simp only [Memory.wfFrom, Bool.and_eq_true, decide_eq_true_eq] at w
    have hne : p.1 ≠ a := by omega
    simp only [Memory.read, hne, if_false]
    exact ih w.2 (by omega)

/-- From the capacity on every word is the unlisted value. -/
theorem Memory.read_beyond {low : Nat} {m : Memory α} {a : Nat}
    (w : Memory.wfFrom z capacity low m = true) (h : capacity ≤ a) : Memory.read z m a = z := by
  induction m generalizing low with
  | nil => rfl
  | cons p rest ih =>
    simp only [Memory.wfFrom, Bool.and_eq_true, decide_eq_true_eq] at w
    have hne : p.1 ≠ a := by omega
    simp only [Memory.read, hne, if_false]
    exact ih w.2

/-- A read of the word just written. -/
theorem Memory.read_write_same {low : Nat} {m : Memory α} (a : Nat) (v : α)
    (w : Memory.wfFrom z capacity low m = true) :
    Memory.read z (Memory.write z m a v) a = v := by
  induction m generalizing low with
  | nil => by_cases hv : v = z <;> simp [Memory.write, Memory.read, hv]
  | cons p rest ih =>
    have w' := w
    simp only [Memory.wfFrom, Bool.and_eq_true, decide_eq_true_eq] at w'
    by_cases h1 : a < p.1
    · by_cases hv : v = z
      · have := Memory.read_below (z := z) (capacity := capacity) (low := p.1) (m := p :: rest) (a := a)
          (by simp [Memory.wfFrom, w'.1.1.2, w'.1.2, w'.2]) h1
        simpa [Memory.write, h1, hv] using this
      · simp [Memory.write, h1, hv, Memory.read]
    · by_cases h2 : a = p.1
      · by_cases hv : v = z
        · subst h2
          simpa [Memory.write, hv] using Memory.read_below w'.2 (Nat.lt_succ_self p.1)
        · simp [Memory.write, h2, hv, Memory.read]
      · have h3 : p.1 ≠ a := fun h => h2 h.symm
        simpa [Memory.write, h1, h2, Memory.read, h3] using ih w'.2

/-- A read of another word. -/
theorem Memory.read_write_other {m : Memory α} {a a' : Nat} (v : α) (h : a' ≠ a) :
    Memory.read z (Memory.write z m a v) a' = Memory.read z m a' := by
  have h' : a ≠ a' := fun e => h e.symm
  induction m with
  | nil => by_cases hv : v = z <;> simp [Memory.write, Memory.read, hv, h']
  | cons p rest ih =>
    by_cases h1 : a < p.1
    · by_cases hv : v = z <;> simp [Memory.write, h1, hv, Memory.read, h']
    · by_cases h2 : a = p.1
      · by_cases hv : v = z <;> simp [Memory.write, ← h2, hv, Memory.read, h']
      · simp only [Memory.write, h1, h2, if_false, Memory.read, ih]

theorem Memory.wfFrom_write {low : Nat} {m : Memory α} {a : Nat} (v : α)
    (w : Memory.wfFrom z capacity low m = true) (hl : low ≤ a) (ha : a < capacity) :
    Memory.wfFrom z capacity low (Memory.write z m a v) = true := by
  induction m generalizing low with
  | nil => by_cases hv : v = z <;> simp [Memory.write, Memory.wfFrom, hv, hl, ha]
  | cons p rest ih =>
    have w' := w
    simp only [Memory.wfFrom, Bool.and_eq_true, decide_eq_true_eq] at w'
    by_cases h1 : a < p.1
    · by_cases hv : v = z
      · simpa [Memory.write, h1, hv] using w
      · have h4 : a + 1 ≤ p.1 := h1
        simp [Memory.write, h1, hv, Memory.wfFrom, hl, ha, h4, w'.1.1.2, w'.1.2, w'.2]
    · by_cases h2 : a = p.1
      · by_cases hv : v = z
        · simpa [Memory.write, h2, hv] using Memory.wfFrom_mono (by omega) w'.2
        · simp [Memory.write, h2, hv, Memory.wfFrom, w'.1.1.1, w'.1.1.2, w'.2]
      · have h4 : p.1 + 1 ≤ a := by omega
        simp [Memory.write, h1, h2, Memory.wfFrom, w'.1.1.1, w'.1.1.2, w'.1.2, ih w'.2 h4]

/-- Every write inside the capacity keeps the canonical form. -/
theorem Memory.wf_write {m : Memory α} {a : Nat} (v : α) (w : Memory.wf z capacity m = true)
    (ha : a < capacity) : Memory.wf z capacity (Memory.write z m a v) = true :=
  Memory.wfFrom_write v w (Nat.zero_le a) ha

/-- The empty memory, that of reset, is canonical. -/
@[simp] theorem Memory.wf_nil : Memory.wf z capacity ([] : Memory α) = true := rfl

/-- The operation that STEP writes with: what it does when it answers, and when it answers. -/
theorem memWrite_eq_some {O : Numerics α} {c : Config} {m m' : Memory α} {a : Nat} {v : α}
    (h : memWrite O c m a v = some m') : a < c.n ∧ m' = m.write (zero O) a v := by
  unfold memWrite at h
  split at h
  · next ha => exact ⟨ha, (Option.some.inj h).symm⟩
  · cases h

theorem memWrite_of_lt {O : Numerics α} {c : Config} {m : Memory α} {a : Nat} {v : α} (h : a < c.n) :
    memWrite O c m a v = some (m.write (zero O) a v) := by simp [memWrite, h]

theorem memWrite_of_not_lt {O : Numerics α} {c : Config} {m : Memory α} {a : Nat} {v : α}
    (h : ¬ a < c.n) : memWrite O c m a v = none := by simp [memWrite, h]

/-- Equal reads mean equal canonical memories. -/
theorem Memory.ext_of_read {low low' : Nat} {m m' : Memory α}
    (w : Memory.wfFrom z capacity low m = true) (w' : Memory.wfFrom z capacity low' m' = true)
    (h : ∀ a, Memory.read z m a = Memory.read z m' a) : m = m' := by
  induction m generalizing m' low low' with
  | nil =>
    cases m' with
    | nil => rfl
    | cons q rest' =>
      simp only [Memory.wfFrom, Bool.and_eq_true, decide_eq_true_eq] at w'
      have := h q.1
      simp [Memory.read] at this
      exact absurd this.symm (by simpa using w'.1.2)
  | cons p rest ih =>
    simp only [Memory.wfFrom, Bool.and_eq_true, decide_eq_true_eq] at w
    cases m' with
    | nil =>
      have := h p.1
      simp [Memory.read] at this
      exact absurd this (by simpa using w.1.2)
    | cons q rest' =>
      simp only [Memory.wfFrom, Bool.and_eq_true, decide_eq_true_eq] at w'
      rcases Nat.lt_trichotomy p.1 q.1 with hlt | heq | hgt
      · have hp := h p.1
        have hq : q.1 ≠ p.1 := by omega
        have hb := Memory.read_below (z := z) w'.2 (show p.1 < q.1 + 1 by omega)
        simp [Memory.read, hq, hb] at hp
        exact absurd hp (by simpa using w.1.2)
      · have hv : p.2 = q.2 := by
          have := h p.1
          simpa [Memory.read, heq] using this
        have hpq : p = q := Prod.ext heq hv
        have hrest : rest = rest' := ih w.2 w'.2 fun a => by
          by_cases ha : p.1 = a
          · have hb := Memory.read_below (z := z) w.2 (show a < p.1 + 1 by omega)
            have hb' := Memory.read_below (z := z) w'.2 (show a < q.1 + 1 by omega)
            rw [hb, hb']
          · have := h a
            have hq : q.1 ≠ a := by omega
            simpa [Memory.read, ha, hq] using this
        rw [hpq, hrest]
      · have hq := h q.1
        have hp : p.1 ≠ q.1 := by omega
        have hb := Memory.read_below (z := z) w.2 (show q.1 < p.1 + 1 by omega)
        simp [Memory.read, hp, hb] at hq
        exact absurd hq.symm (by simpa using w'.1.2)

end Sys2Proof.Machine
end

