-- ==== Sys2Proof/Laws/State.lean ====
section
/-! SUPPORT. One lemma per field per named update of the state, so that no later proof unfolds a record
update. -/

namespace Sys2Proof.Machine

@[simp] theorem State.drew_toBlockState (s : State) (k : Nat) :
    (s.drew k).toBlockState = s.toBlockState := rfl

@[simp] theorem State.drew_cfg (s : State) (k : Nat) :
    (s.drew k).cfg = s.cfg := rfl

@[simp] theorem State.drew_draws (s : State) (k : Nat) :
    (s.drew k).draws = s.draws + k := rfl

@[simp] theorem State.drew_port (s : State) (k : Nat) :
    (s.drew k).port = s.port := rfl

@[simp] theorem State.drew_rsp (s : State) (k : Nat) :
    (s.drew k).rsp = s.rsp := rfl

@[simp] theorem State.withBlock_toBlockState (s : State) (b : BlockState F32) :
    (s.withBlock b).toBlockState = b := rfl

@[simp] theorem State.withBlock_cfg (s : State) (b : BlockState F32) :
    (s.withBlock b).cfg = s.cfg := rfl

@[simp] theorem State.withBlock_draws (s : State) (b : BlockState F32) :
    (s.withBlock b).draws = s.draws := rfl

@[simp] theorem State.withBlock_port (s : State) (b : BlockState F32) :
    (s.withBlock b).port = s.port := rfl

@[simp] theorem State.withBlock_rsp (s : State) (b : BlockState F32) :
    (s.withBlock b).rsp = s.rsp := rfl

@[simp] theorem State.respond_toBlockState (s : State) (w : Word) :
    (s.respond w).toBlockState = s.toBlockState := rfl

@[simp] theorem State.respond_cfg (s : State) (w : Word) :
    (s.respond w).cfg = s.cfg := rfl

@[simp] theorem State.respond_draws (s : State) (w : Word) :
    (s.respond w).draws = s.draws := rfl

@[simp] theorem State.respond_port (s : State) (w : Word) :
    (s.respond w).port = s.port := rfl

@[simp] theorem State.respond_rsp (s : State) (w : Word) :
    (s.respond w).rsp = some w := rfl

@[simp] theorem State.silent_toBlockState (s : State) :
    s.silent.toBlockState = s.toBlockState := rfl

@[simp] theorem State.silent_cfg (s : State) :
    s.silent.cfg = s.cfg := rfl

@[simp] theorem State.silent_draws (s : State) :
    s.silent.draws = s.draws := rfl

@[simp] theorem State.silent_port (s : State) :
    s.silent.port = s.port := rfl

@[simp] theorem State.silent_rsp (s : State) :
    s.silent.rsp = none := rfl

@[simp] theorem State.withPort_toBlockState (s : State) (es : List PortEvent) :
    (s.withPort es).toBlockState = s.toBlockState := rfl

@[simp] theorem State.withPort_cfg (s : State) (es : List PortEvent) :
    (s.withPort es).cfg = s.cfg := rfl

@[simp] theorem State.withPort_draws (s : State) (es : List PortEvent) :
    (s.withPort es).draws = s.draws := rfl

@[simp] theorem State.withPort_port (s : State) (es : List PortEvent) :
    (s.withPort es).port = es := rfl

@[simp] theorem State.withPort_rsp (s : State) (es : List PortEvent) :
    (s.withPort es).rsp = s.rsp := rfl

@[simp] theorem State.flag_cfg (s : State) (f : StatusBit) :
    (s.flag f).cfg = s.cfg := rfl

@[simp] theorem State.flag_draws (s : State) (f : StatusBit) :
    (s.flag f).draws = s.draws := rfl

@[simp] theorem State.flag_port (s : State) (f : StatusBit) :
    (s.flag f).port = s.port := rfl

@[simp] theorem State.flag_rsp (s : State) (f : StatusBit) :
    (s.flag f).rsp = s.rsp := rfl

@[simp] theorem State.flag_toBlockState (s : State) (f : StatusBit) :
    (s.flag f).toBlockState = { s.toBlockState with status := raiseFlag f s.status } := rfl

@[simp] theorem State.initialised_cfg (s : State) :
    s.initialised.cfg = s.cfg := rfl

@[simp] theorem State.initialised_draws (s : State) :
    s.initialised.draws = s.draws := rfl

@[simp] theorem State.initialised_port (s : State) :
    s.initialised.port = s.port := rfl

@[simp] theorem State.initialised_rsp (s : State) :
    s.initialised.rsp = s.rsp := rfl

@[simp] theorem State.initialised_toBlockState (s : State) :
    s.initialised.toBlockState = BlockState.initial builtNum s.cfg := rfl

@[simp] theorem State.afterReset_cfg (s : State) :
    s.afterReset.cfg = s.cfg := rfl

@[simp] theorem State.afterReset_draws (s : State) :
    s.afterReset.draws = s.draws := rfl

@[simp] theorem State.afterReset_port (s : State) :
    s.afterReset.port = s.port := rfl

@[simp] theorem State.afterReset_rsp (s : State) : s.afterReset.rsp = none := rfl

@[simp] theorem State.afterReset_toBlockState (s : State) :
    s.afterReset.toBlockState = BlockState.initial builtNum s.cfg := rfl

@[simp] theorem State.resetWith_cfg (c : Config) : (State.resetWith c).cfg = c := rfl

@[simp] theorem State.resetWith_draws (c : Config) : (State.resetWith c).draws = 0 := rfl

@[simp] theorem State.resetWith_port (c : Config) : (State.resetWith c).port = [] := rfl

@[simp] theorem State.resetWith_rsp (c : Config) : (State.resetWith c).rsp = none := rfl

@[simp] theorem State.resetWith_toBlockState (c : Config) :
    (State.resetWith c).toBlockState = BlockState.initial builtNum c := rfl

@[simp] theorem bitsToNum_eq (b : Word) : bitsToNum b = b := rfl

@[simp] theorem numToBits_eq (v : F32) : numToBits v = v := rfl

variable {α : Type}

@[simp] theorem BlockState.raise_xIn (k : StatusBit) (b : BlockState α) : (b.raise k).xIn = b.xIn := rfl

@[simp] theorem BlockState.raise_revIn (k : StatusBit) (b : BlockState α) : (b.raise k).revIn = b.revIn := rfl

@[simp] theorem BlockState.raise_fb (k : StatusBit) (b : BlockState α) : (b.raise k).fb = b.fb := rfl

@[simp] theorem BlockState.raise_delayTarget (k : StatusBit) (b : BlockState α) : (b.raise k).delayTarget = b.delayTarget := rfl

@[simp] theorem BlockState.raise_toneHz (k : StatusBit) (b : BlockState α) : (b.raise k).toneHz = b.toneHz := rfl

@[simp] theorem BlockState.raise_fbGain (k : StatusBit) (b : BlockState α) : (b.raise k).fbGain = b.fbGain := rfl

@[simp] theorem BlockState.raise_flutDepth (k : StatusBit) (b : BlockState α) : (b.raise k).flutDepth = b.flutDepth := rfl

@[simp] theorem BlockState.raise_mode (k : StatusBit) (b : BlockState α) : (b.raise k).mode = b.mode := rfl

@[simp] theorem BlockState.raise_filtCfg (k : StatusBit) (b : BlockState α) : (b.raise k).filtCfg = b.filtCfg := rfl

@[simp] theorem BlockState.raise_lfoAInc (k : StatusBit) (b : BlockState α) : (b.raise k).lfoAInc = b.lfoAInc := rfl

@[simp] theorem BlockState.raise_lfoBInc (k : StatusBit) (b : BlockState α) : (b.raise k).lfoBInc = b.lfoBInc := rfl

@[simp] theorem BlockState.raise_phA (k : StatusBit) (b : BlockState α) : (b.raise k).phA = b.phA := rfl

@[simp] theorem BlockState.raise_phB (k : StatusBit) (b : BlockState α) : (b.raise k).phB = b.phB := rfl

@[simp] theorem BlockState.raise_yOut (k : StatusBit) (b : BlockState α) : (b.raise k).yOut = b.yOut := rfl

@[simp] theorem BlockState.raise_curDelay (k : StatusBit) (b : BlockState α) : (b.raise k).curDelay = b.curDelay := rfl

@[simp] theorem BlockState.raise_wrIdx (k : StatusBit) (b : BlockState α) : (b.raise k).wrIdx = b.wrIdx := rfl

@[simp] theorem BlockState.raise_taY0 (k : StatusBit) (b : BlockState α) : (b.raise k).taY0 = b.taY0 := rfl

@[simp] theorem BlockState.raise_tbY0 (k : StatusBit) (b : BlockState α) : (b.raise k).tbY0 = b.tbY0 := rfl

@[simp] theorem BlockState.raise_dcX1 (k : StatusBit) (b : BlockState α) : (b.raise k).dcX1 = b.dcX1 := rfl

@[simp] theorem BlockState.raise_dcY1 (k : StatusBit) (b : BlockState α) : (b.raise k).dcY1 = b.dcY1 := rfl

@[simp] theorem BlockState.raise_dl (k : StatusBit) (b : BlockState α) : (b.raise k).dl = b.dl := rfl

@[simp] theorem BlockState.raise_status (k : StatusBit) (b : BlockState α) :
    (b.raise k).status = raiseFlag k b.status := rfl

@[simp] theorem raiseNonfiniteIf_xIn (bad : Bool) (b : BlockState α) :
    (raiseNonfiniteIf bad b).xIn = b.xIn := by
  cases bad <;> rfl

@[simp] theorem raiseNonfiniteIf_revIn (bad : Bool) (b : BlockState α) :
    (raiseNonfiniteIf bad b).revIn = b.revIn := by
  cases bad <;> rfl

@[simp] theorem raiseNonfiniteIf_fb (bad : Bool) (b : BlockState α) :
    (raiseNonfiniteIf bad b).fb = b.fb := by
  cases bad <;> rfl

@[simp] theorem raiseNonfiniteIf_delayTarget (bad : Bool) (b : BlockState α) :
    (raiseNonfiniteIf bad b).delayTarget = b.delayTarget := by
  cases bad <;> rfl

@[simp] theorem raiseNonfiniteIf_toneHz (bad : Bool) (b : BlockState α) :
    (raiseNonfiniteIf bad b).toneHz = b.toneHz := by
  cases bad <;> rfl

@[simp] theorem raiseNonfiniteIf_fbGain (bad : Bool) (b : BlockState α) :
    (raiseNonfiniteIf bad b).fbGain = b.fbGain := by
  cases bad <;> rfl

@[simp] theorem raiseNonfiniteIf_flutDepth (bad : Bool) (b : BlockState α) :
    (raiseNonfiniteIf bad b).flutDepth = b.flutDepth := by
  cases bad <;> rfl

@[simp] theorem raiseNonfiniteIf_mode (bad : Bool) (b : BlockState α) :
    (raiseNonfiniteIf bad b).mode = b.mode := by
  cases bad <;> rfl

@[simp] theorem raiseNonfiniteIf_filtCfg (bad : Bool) (b : BlockState α) :
    (raiseNonfiniteIf bad b).filtCfg = b.filtCfg := by
  cases bad <;> rfl

@[simp] theorem raiseNonfiniteIf_lfoAInc (bad : Bool) (b : BlockState α) :
    (raiseNonfiniteIf bad b).lfoAInc = b.lfoAInc := by
  cases bad <;> rfl

@[simp] theorem raiseNonfiniteIf_lfoBInc (bad : Bool) (b : BlockState α) :
    (raiseNonfiniteIf bad b).lfoBInc = b.lfoBInc := by
  cases bad <;> rfl

@[simp] theorem raiseNonfiniteIf_phA (bad : Bool) (b : BlockState α) :
    (raiseNonfiniteIf bad b).phA = b.phA := by
  cases bad <;> rfl

@[simp] theorem raiseNonfiniteIf_phB (bad : Bool) (b : BlockState α) :
    (raiseNonfiniteIf bad b).phB = b.phB := by
  cases bad <;> rfl

@[simp] theorem raiseNonfiniteIf_yOut (bad : Bool) (b : BlockState α) :
    (raiseNonfiniteIf bad b).yOut = b.yOut := by
  cases bad <;> rfl

@[simp] theorem raiseNonfiniteIf_status (bad : Bool) (b : BlockState α) :
    (raiseNonfiniteIf bad b).status = if bad then raiseFlag .nonfinite b.status else b.status := by
  cases bad <;> rfl

@[simp] theorem raiseNonfiniteIf_curDelay (bad : Bool) (b : BlockState α) :
    (raiseNonfiniteIf bad b).curDelay = b.curDelay := by
  cases bad <;> rfl

@[simp] theorem raiseNonfiniteIf_wrIdx (bad : Bool) (b : BlockState α) :
    (raiseNonfiniteIf bad b).wrIdx = b.wrIdx := by
  cases bad <;> rfl

@[simp] theorem raiseNonfiniteIf_taY0 (bad : Bool) (b : BlockState α) :
    (raiseNonfiniteIf bad b).taY0 = b.taY0 := by
  cases bad <;> rfl

@[simp] theorem raiseNonfiniteIf_tbY0 (bad : Bool) (b : BlockState α) :
    (raiseNonfiniteIf bad b).tbY0 = b.tbY0 := by
  cases bad <;> rfl

@[simp] theorem raiseNonfiniteIf_dcX1 (bad : Bool) (b : BlockState α) :
    (raiseNonfiniteIf bad b).dcX1 = b.dcX1 := by
  cases bad <;> rfl

@[simp] theorem raiseNonfiniteIf_dcY1 (bad : Bool) (b : BlockState α) :
    (raiseNonfiniteIf bad b).dcY1 = b.dcY1 := by
  cases bad <;> rfl

@[simp] theorem raiseNonfiniteIf_dl (bad : Bool) (b : BlockState α) :
    (raiseNonfiniteIf bad b).dl = b.dl := by
  cases bad <;> rfl

@[simp] theorem lfoAdvance_xIn (b : BlockState α) : (lfoAdvance b).xIn = b.xIn := rfl

@[simp] theorem lfoAdvance_revIn (b : BlockState α) : (lfoAdvance b).revIn = b.revIn := rfl

@[simp] theorem lfoAdvance_fb (b : BlockState α) : (lfoAdvance b).fb = b.fb := rfl

@[simp] theorem lfoAdvance_delayTarget (b : BlockState α) : (lfoAdvance b).delayTarget = b.delayTarget := rfl

@[simp] theorem lfoAdvance_toneHz (b : BlockState α) : (lfoAdvance b).toneHz = b.toneHz := rfl

@[simp] theorem lfoAdvance_fbGain (b : BlockState α) : (lfoAdvance b).fbGain = b.fbGain := rfl

@[simp] theorem lfoAdvance_flutDepth (b : BlockState α) : (lfoAdvance b).flutDepth = b.flutDepth := rfl

@[simp] theorem lfoAdvance_mode (b : BlockState α) : (lfoAdvance b).mode = b.mode := rfl

@[simp] theorem lfoAdvance_filtCfg (b : BlockState α) : (lfoAdvance b).filtCfg = b.filtCfg := rfl

@[simp] theorem lfoAdvance_lfoAInc (b : BlockState α) : (lfoAdvance b).lfoAInc = b.lfoAInc := rfl

@[simp] theorem lfoAdvance_lfoBInc (b : BlockState α) : (lfoAdvance b).lfoBInc = b.lfoBInc := rfl

@[simp] theorem lfoAdvance_phA (b : BlockState α) : (lfoAdvance b).phA = b.phA + b.lfoAInc := rfl

@[simp] theorem lfoAdvance_phB (b : BlockState α) : (lfoAdvance b).phB = b.phB + b.lfoBInc := rfl

@[simp] theorem lfoAdvance_yOut (b : BlockState α) : (lfoAdvance b).yOut = b.yOut := rfl

@[simp] theorem lfoAdvance_status (b : BlockState α) : (lfoAdvance b).status = b.status := rfl

@[simp] theorem lfoAdvance_curDelay (b : BlockState α) : (lfoAdvance b).curDelay = b.curDelay := rfl

@[simp] theorem lfoAdvance_wrIdx (b : BlockState α) : (lfoAdvance b).wrIdx = b.wrIdx := rfl

@[simp] theorem lfoAdvance_taY0 (b : BlockState α) : (lfoAdvance b).taY0 = b.taY0 := rfl

@[simp] theorem lfoAdvance_tbY0 (b : BlockState α) : (lfoAdvance b).tbY0 = b.tbY0 := rfl

@[simp] theorem lfoAdvance_dcX1 (b : BlockState α) : (lfoAdvance b).dcX1 = b.dcX1 := rfl

@[simp] theorem lfoAdvance_dcY1 (b : BlockState α) : (lfoAdvance b).dcY1 = b.dcY1 := rfl

@[simp] theorem lfoAdvance_dl (b : BlockState α) : (lfoAdvance b).dl = b.dl := rfl

@[simp] theorem flutter_fst (O : Numerics α) (b : BlockState α) : (flutter O b).1 = lfoAdvance b := rfl

@[simp] theorem flutter_snd (O : Numerics α) (b : BlockState α) :
    (flutter O b).2 = flutterOffset O (lfoAdvance b) := rfl

@[simp] theorem dlSlew_xIn (O : Numerics α) (c : Config) (b : BlockState α) (tgt : α) :
    (dlSlew O c b tgt).xIn = b.xIn := rfl

@[simp] theorem dlSlew_revIn (O : Numerics α) (c : Config) (b : BlockState α) (tgt : α) :
    (dlSlew O c b tgt).revIn = b.revIn := rfl

@[simp] theorem dlSlew_fb (O : Numerics α) (c : Config) (b : BlockState α) (tgt : α) :
    (dlSlew O c b tgt).fb = b.fb := rfl

@[simp] theorem dlSlew_delayTarget (O : Numerics α) (c : Config) (b : BlockState α) (tgt : α) :
    (dlSlew O c b tgt).delayTarget = b.delayTarget := rfl

@[simp] theorem dlSlew_toneHz (O : Numerics α) (c : Config) (b : BlockState α) (tgt : α) :
    (dlSlew O c b tgt).toneHz = b.toneHz := rfl

@[simp] theorem dlSlew_fbGain (O : Numerics α) (c : Config) (b : BlockState α) (tgt : α) :
    (dlSlew O c b tgt).fbGain = b.fbGain := rfl

@[simp] theorem dlSlew_flutDepth (O : Numerics α) (c : Config) (b : BlockState α) (tgt : α) :
    (dlSlew O c b tgt).flutDepth = b.flutDepth := rfl

@[simp] theorem dlSlew_mode (O : Numerics α) (c : Config) (b : BlockState α) (tgt : α) :
    (dlSlew O c b tgt).mode = b.mode := rfl

@[simp] theorem dlSlew_filtCfg (O : Numerics α) (c : Config) (b : BlockState α) (tgt : α) :
    (dlSlew O c b tgt).filtCfg = b.filtCfg := rfl

@[simp] theorem dlSlew_lfoAInc (O : Numerics α) (c : Config) (b : BlockState α) (tgt : α) :
    (dlSlew O c b tgt).lfoAInc = b.lfoAInc := rfl

@[simp] theorem dlSlew_lfoBInc (O : Numerics α) (c : Config) (b : BlockState α) (tgt : α) :
    (dlSlew O c b tgt).lfoBInc = b.lfoBInc := rfl

@[simp] theorem dlSlew_phA (O : Numerics α) (c : Config) (b : BlockState α) (tgt : α) :
    (dlSlew O c b tgt).phA = b.phA := rfl

@[simp] theorem dlSlew_phB (O : Numerics α) (c : Config) (b : BlockState α) (tgt : α) :
    (dlSlew O c b tgt).phB = b.phB := rfl

@[simp] theorem dlSlew_yOut (O : Numerics α) (c : Config) (b : BlockState α) (tgt : α) :
    (dlSlew O c b tgt).yOut = b.yOut := rfl

@[simp] theorem dlSlew_status (O : Numerics α) (c : Config) (b : BlockState α) (tgt : α) :
    (dlSlew O c b tgt).status = b.status := rfl

@[simp] theorem dlSlew_curDelay (O : Numerics α) (c : Config) (b : BlockState α) (tgt : α) :
    (dlSlew O c b tgt).curDelay = slew O (kSlew O c) b.curDelay tgt := rfl

@[simp] theorem dlSlew_wrIdx (O : Numerics α) (c : Config) (b : BlockState α) (tgt : α) :
    (dlSlew O c b tgt).wrIdx = b.wrIdx := rfl

@[simp] theorem dlSlew_taY0 (O : Numerics α) (c : Config) (b : BlockState α) (tgt : α) :
    (dlSlew O c b tgt).taY0 = b.taY0 := rfl

@[simp] theorem dlSlew_tbY0 (O : Numerics α) (c : Config) (b : BlockState α) (tgt : α) :
    (dlSlew O c b tgt).tbY0 = b.tbY0 := rfl

@[simp] theorem dlSlew_dcX1 (O : Numerics α) (c : Config) (b : BlockState α) (tgt : α) :
    (dlSlew O c b tgt).dcX1 = b.dcX1 := rfl

@[simp] theorem dlSlew_dcY1 (O : Numerics α) (c : Config) (b : BlockState α) (tgt : α) :
    (dlSlew O c b tgt).dcY1 = b.dcY1 := rfl

@[simp] theorem dlSlew_dl (O : Numerics α) (c : Config) (b : BlockState α) (tgt : α) :
    (dlSlew O c b tgt).dl = b.dl := rfl

end Sys2Proof.Machine
end

