-- ==== Sys2Proof/Laws/Ops.lean ====
section
/-! SUPPORT. One lemma per shared operation that says once everything it can do: the DL accesses, the
pipeline, ROUTE, the port and a step. -/

namespace Sys2Proof.Machine

variable {α : Type}

theorem onNext_eq_next {o : Host.Outcome State Fault Refusal} {f : State → State} {t : State}
    (h : onNext o f = .next t) : ∃ u, o = .next u ∧ t = f u := by
  cases o with
  | next u => exact ⟨u, rfl, by simpa [onNext] using h.symm⟩
  | fault r => simp [onNext] at h
  | refused r => simp [onNext] at h

theorem onNext_next (u : State) (f : State → State) : onNext (.next u) f = .next (f u) := rfl

theorem onNext_fault (r : Fault) (f : State → State) : onNext (.fault r) f = .fault r := rfl

/-- The address of a read is a word of DL. -/
theorem memRead_address_lt {c : Config} (h : 0 < c.n) (a : Int) : (a % (c.n : Int)).toNat < c.n := by
  have h1 := Int.emod_nonneg a (show (c.n : Int) ≠ 0 by omega)
  have h2 := Int.emod_lt_of_pos a (show (0 : Int) < c.n by omega)
  omega

/-- `dl_write` answers exactly when WR_IDX names a word, and then writes it and advances WR_IDX. -/
theorem dlWrite_of_lt [DecidableEq α] {O : Numerics α} {c : Config} {b : BlockState α} {v : α}
    (h : b.wrIdx.toNat < c.n) :
    dlWrite O c b v = some
      { b with dl := b.dl.write (zero O) b.wrIdx.toNat v, wrIdx := advanceIndex c b.wrIdx } := by
  simp [dlWrite, memWrite_of_lt h]

theorem dlWrite_of_not_lt [DecidableEq α] {O : Numerics α} {c : Config} {b : BlockState α} {v : α}
    (h : ¬ b.wrIdx.toNat < c.n) : dlWrite O c b v = none := by
  simp [dlWrite, memWrite_of_not_lt h]

theorem dlWrite_eq_some [DecidableEq α] {O : Numerics α} {c : Config} {b b' : BlockState α} {v : α}
    (h : dlWrite O c b v = some b') :
    b.wrIdx.toNat < c.n ∧
      b' = { b with dl := b.dl.write (zero O) b.wrIdx.toNat v, wrIdx := advanceIndex c b.wrIdx } := by
  by_cases hl : b.wrIdx.toNat < c.n
  · rw [dlWrite_of_lt hl] at h
    exact ⟨hl, (Option.some.inj h).symm⟩
  · rw [dlWrite_of_not_lt hl] at h
    cases h

theorem advanceIndex_lt {c : Config} (h : c.legal = true) (w : Word) : (advanceIndex c w).toNat < c.n := by
  simp only [Config.legal, Bool.and_eq_true, decide_eq_true_eq] at h
  have h1 : (w.toNat + 1) % c.n < c.n := Nat.mod_lt _ (by omega)
  unfold advanceIndex
  rw [BitVec.toNat_ofNat]
  omega

/-- Below the capacity the index arithmetic does not wrap at 32 bits. -/
theorem advanceIndex_toNat {c : Config} (h : c.legal = true) (w : Word) :
    (advanceIndex c w).toNat = (w.toNat + 1) % c.n := by
  simp only [Config.legal, Bool.and_eq_true, decide_eq_true_eq] at h
  have h1 : (w.toNat + 1) % c.n < c.n := Nat.mod_lt _ (by omega)
  unfold advanceIndex
  rw [BitVec.toNat_ofNat]
  omega

/-- The state after stages 0 to 3, up to the read: phases advanced, the sample written, CUR_DELAY
slewed. -/
def afterDelayStages [DecidableEq α] (O : Nat → Numerics α) (c : Config) (b : BlockState α) :
    BlockState α :=
  let f := lfoAdvance b
  let b2 : BlockState α :=
    { f with
      dl := b.dl.write (zero (O 1)) b.wrIdx.toNat (drivenSample (O 1) b)
      wrIdx := advanceIndex c b.wrIdx }
  dlSlew (O 2) c b2 (stepTarget (O 0) c f (flutterOffset (O 0) f))

theorem drivenSample_lfoAdvance (O : Numerics α) (b : BlockState α) :
    drivenSample O (lfoAdvance b) = drivenSample O b := rfl

/-- STEP answers exactly when WR_IDX names a word, and then it is the stages in their order. -/
theorem stepBlock_of_lt [DecidableEq α] {O : Nat → Numerics α} {c : Config} {b : BlockState α}
    (h : b.wrIdx.toNat < c.n) :
    stepBlock O c b = some (conditionOutput O c (afterDelayStages O c b)
      (dlRead (O 3) c (afterDelayStages O c b))) := by
  have h' : (lfoAdvance b).wrIdx.toNat < c.n := h
  simp only [stepBlock, flutter_fst, flutter_snd, dlWrite_of_lt h', Option.map_some,
    drivenSample_lfoAdvance, lfoAdvance_wrIdx, lfoAdvance_dl]
  rfl

theorem stepBlock_of_not_lt [DecidableEq α] {O : Nat → Numerics α} {c : Config} {b : BlockState α}
    (h : ¬ b.wrIdx.toNat < c.n) : stepBlock O c b = none := by
  have h' : ¬ (lfoAdvance b).wrIdx.toNat < c.n := h
  simp [stepBlock, dlWrite_of_not_lt h']

/-- STEP on the machine: the pipeline's state and its draws, or the fault of a WR_IDX that names no
word. -/
theorem stepState_of_lt {s : State} (h : s.wrIdx.toNat < s.cfg.n) :
    ∃ b, stepBlock (drawsFrom s) s.cfg s.toBlockState = some b ∧
      stepState s = .next ((s.withBlock b).drew stepDraws) := by
  refine ⟨_, stepBlock_of_lt h, ?_⟩
  simp only [stepState, stepBlock_of_lt h]

theorem stepState_of_not_lt {s : State} (h : ¬ s.wrIdx.toNat < s.cfg.n) :
    stepState s = .fault (.noSuchDelayWord s.wrIdx) := by
  simp only [stepState, stepBlock_of_not_lt h]

theorem stepState_eq_next {s t : State} (h : stepState s = .next t) :
    s.wrIdx.toNat < s.cfg.n ∧ ∃ b, stepBlock (drawsFrom s) s.cfg s.toBlockState = some b ∧
      t = (s.withBlock b).drew stepDraws := by
  by_cases hl : s.wrIdx.toNat < s.cfg.n
  · obtain ⟨b, hb, he⟩ := stepState_of_lt hl
    rw [he] at h
    exact ⟨hl, b, hb, (Host.Outcome.next.inj h).symm⟩
  · rw [stepState_of_not_lt hl] at h
    cases h

/-! The fields of the state after the filters and the limiter. -/

section conditionOutput

variable (O : Nat → Numerics α) (c : Config) (b : BlockState α) (r : α)

@[simp] theorem conditionOutput_xIn : (conditionOutput O c b r).xIn = b.xIn := by
  simp [conditionOutput, toneStageA, toneStageB, dcBlock]

@[simp] theorem conditionOutput_revIn : (conditionOutput O c b r).revIn = b.revIn := by
  simp [conditionOutput, toneStageA, toneStageB, dcBlock]

@[simp] theorem conditionOutput_fb : (conditionOutput O c b r).fb = b.fb := by
  simp [conditionOutput, toneStageA, toneStageB, dcBlock]

@[simp] theorem conditionOutput_delayTarget :
    (conditionOutput O c b r).delayTarget = b.delayTarget := by
  simp [conditionOutput, toneStageA, toneStageB, dcBlock]

@[simp] theorem conditionOutput_toneHz : (conditionOutput O c b r).toneHz = b.toneHz := by
  simp [conditionOutput, toneStageA, toneStageB, dcBlock]

@[simp] theorem conditionOutput_fbGain : (conditionOutput O c b r).fbGain = b.fbGain := by
  simp [conditionOutput, toneStageA, toneStageB, dcBlock]

@[simp] theorem conditionOutput_flutDepth : (conditionOutput O c b r).flutDepth = b.flutDepth := by
  simp [conditionOutput, toneStageA, toneStageB, dcBlock]

@[simp] theorem conditionOutput_mode : (conditionOutput O c b r).mode = b.mode := by
  simp [conditionOutput, toneStageA, toneStageB, dcBlock]

@[simp] theorem conditionOutput_filtCfg : (conditionOutput O c b r).filtCfg = b.filtCfg := by
  simp [conditionOutput, toneStageA, toneStageB, dcBlock]

@[simp] theorem conditionOutput_lfoAInc : (conditionOutput O c b r).lfoAInc = b.lfoAInc := by
  simp [conditionOutput, toneStageA, toneStageB, dcBlock]

@[simp] theorem conditionOutput_lfoBInc : (conditionOutput O c b r).lfoBInc = b.lfoBInc := by
  simp [conditionOutput, toneStageA, toneStageB, dcBlock]

@[simp] theorem conditionOutput_phA : (conditionOutput O c b r).phA = b.phA := by
  simp [conditionOutput, toneStageA, toneStageB, dcBlock]

@[simp] theorem conditionOutput_phB : (conditionOutput O c b r).phB = b.phB := by
  simp [conditionOutput, toneStageA, toneStageB, dcBlock]

@[simp] theorem conditionOutput_curDelay : (conditionOutput O c b r).curDelay = b.curDelay := by
  simp [conditionOutput, toneStageA, toneStageB, dcBlock]

@[simp] theorem conditionOutput_wrIdx : (conditionOutput O c b r).wrIdx = b.wrIdx := by
  simp [conditionOutput, toneStageA, toneStageB, dcBlock]

@[simp] theorem conditionOutput_dl : (conditionOutput O c b r).dl = b.dl := by
  simp [conditionOutput, toneStageA, toneStageB, dcBlock]

theorem conditionOutput_taY0 :
    (conditionOutput O c b r).taY0 = (toneStageA (O 4) c b r).1.taY0 := by
  simp [conditionOutput, toneStageA, toneStageB, dcBlock]

theorem conditionOutput_tbY0 :
    (conditionOutput O c b r).tbY0 =
      (onepole (O 5) b.tbY0 (gB (O 5) c) (toneStageA (O 4) c b r).2 (b.filtCfg.getLsbD 1)).1 := by
  simp [conditionOutput, toneStageA, toneStageB, dcBlock]

theorem conditionOutput_dcX1 :
    (conditionOutput O c b r).dcX1 =
      (onepole (O 5) b.tbY0 (gB (O 5) c) (toneStageA (O 4) c b r).2 (b.filtCfg.getLsbD 1)).2 := by
  simp [conditionOutput, toneStageA, toneStageB, dcBlock]

theorem conditionOutput_dcY1 :
    (conditionOutput O c b r).dcY1 =
      (O 6).fadd ((O 6).fsub (conditionOutput O c b r).dcX1 b.dcX1)
        ((O 6).fmul (dcR (O 6)) b.dcY1) := by
  simp [conditionOutput, toneStageA, toneStageB, dcBlock]

theorem conditionOutput_yOut :
    (conditionOutput O c b r).yOut = lim (O 7) (conditionOutput O c b r).dcY1 := by
  simp [conditionOutput, toneStageA, toneStageB, dcBlock]

theorem conditionOutput_status :
    (conditionOutput O c b r).status =
      if stepNonfinite (O 7) (gatedInput (O 7) b) b.fb (conditionOutput O c b r).yOut
      then raiseFlag .nonfinite b.status else b.status := by
  simp [conditionOutput, toneStageA, toneStageB, dcBlock]

end conditionOutput

/-! ROUTE. -/

section routeBlock

variable (O : Numerics α) (b : BlockState α)

theorem routeBlock_fb : (routeBlock O b).fb = O.fmul (routeSource b) (routeGain O b) := by
  simp [routeBlock]

theorem routeBlock_status : (routeBlock O b).status =
    if routeNonfinite O (routeSource b) (O.fmul (routeSource b) (routeGain O b))
    then raiseFlag .nonfinite b.status else b.status := by
  simp [routeBlock]

/-- ROUTE changes FB and STATUS and nothing else. -/
theorem routeBlock_frame :
    { routeBlock O b with fb := b.fb, status := b.status } = b := by
  simp [routeBlock]

@[simp] theorem routeBlock_yOut : (routeBlock O b).yOut = b.yOut := by simp [routeBlock]

@[simp] theorem routeBlock_mode : (routeBlock O b).mode = b.mode := by simp [routeBlock]

@[simp] theorem routeBlock_dl : (routeBlock O b).dl = b.dl := by simp [routeBlock]

end routeBlock

@[simp] theorem routeState_toBlockState (s : State) :
    (routeState s).toBlockState = routeBlock (f32Num s.draws) s.toBlockState := rfl

@[simp] theorem routeState_cfg (s : State) : (routeState s).cfg = s.cfg := rfl

@[simp] theorem routeState_draws (s : State) : (routeState s).draws = s.draws + 1 := rfl

@[simp] theorem routeState_port (s : State) : (routeState s).port = s.port := rfl

@[simp] theorem routeState_rsp (s : State) : (routeState s).rsp = s.rsp := rfl

/-! The commands that always answer. -/

theorem execStep_of_lt {s : State} (h : s.wrIdx.toNat < s.cfg.n) :
    ∃ t, stepState s = .next t ∧ execStep s = .next (t.respond t.yOut) := by
  obtain ⟨b, _, he⟩ := stepState_of_lt h
  exact ⟨_, he, by simp [execStep, he, onNext]⟩

theorem execTick_of_lt {s : State} (h : s.wrIdx.toNat < s.cfg.n) :
    ∃ t, stepState s = .next t ∧ execTick s = .next ((routeState t).respond t.yOut) := by
  obtain ⟨b, _, he⟩ := stepState_of_lt h
  exact ⟨_, he, by simp [execTick, he, onNext]⟩

/-- What one command can do to the model's own fields: the configuration and the port stay, and a
response is presented. -/
theorem exec_eq_next {i : Instr} {s t : State} (h : exec i s = .next t) :
    t.cfg = s.cfg ∧ t.port = s.port ∧ t.rsp.isSome = true := by
  cases i with
  | nop => simp only [exec, execNop] at h; cases h; exact ⟨rfl, rfl, rfl⟩
  | wr reg data =>
    simp only [exec, execWr] at h
    split at h <;> cases h <;> exact ⟨rfl, rfl, rfl⟩
  | rd reg =>
    simp only [exec, execRd] at h
    split at h <;> cases h <;> exact ⟨rfl, rfl, rfl⟩
  | step =>
    obtain ⟨u, hu, rfl⟩ := onNext_eq_next h
    obtain ⟨_, b, _, rfl⟩ := stepState_eq_next hu
    exact ⟨rfl, rfl, rfl⟩
  | route => simp only [exec, execRoute] at h; cases h; exact ⟨rfl, rfl, rfl⟩
  | tick =>
    obtain ⟨u, hu, rfl⟩ := onNext_eq_next h
    obtain ⟨_, b, _, rfl⟩ := stepState_eq_next hu
    exact ⟨rfl, rfl, rfl⟩
  | init => simp only [exec, execInit] at h; cases h; exact ⟨rfl, rfl, rfl⟩

/-- What a step can do: idle, a reset, an illegal word, or the decoded command. -/
theorem step_eq_next {s t : State} (h : step s = .next t) :
    s.cfg.legal = true ∧
      ((s.port = [] ∧ t = s.silent) ∨
       (∃ rest, s.port = .reset :: rest ∧ t = (s.withPort rest).afterReset) ∨
       (∃ w rest why, s.port = .command w :: rest ∧ decode w = .error why ∧
          t = takeIllegalWord (s.withPort rest)) ∨
       (∃ w rest i, s.port = .command w :: rest ∧ decode w = .ok i ∧
          exec i (s.withPort rest) = .next t)) := by
  unfold step at h
  split at h
  · next hc =>
    refine ⟨hc, ?_⟩
    unfold runPort at h
    split at h
    · next hp => exact .inl ⟨hp, (Host.Outcome.next.inj h).symm⟩
    · next e rest hp =>
      cases e with
      | reset => exact .inr (.inl ⟨rest, hp, (Host.Outcome.next.inj h).symm⟩)
      | command w =>
        simp only [runEvent, runCommand] at h
        split at h
        · next i hd => exact .inr (.inr (.inr ⟨w, rest, i, hp, hd, h⟩))
        · next why hd =>
          exact .inr (.inr (.inl ⟨w, rest, why, hp, hd, (Host.Outcome.next.inj h).symm⟩))
  · cases h

end Sys2Proof.Machine
end

