-- ==== Sys2Proof/Laws/PerInstr.lean ====
section
/-! SUPPORT. The per-command family: the word of a command has exactly the fields its format gives it
(30_encoding.md R58, R60), and they are a legal command. -/

namespace Sys2Proof.Laws.FieldsOfWord

/-- The encoder's word, split, is the command's fields, and the command is well formed. -/
def Statement (i : Instr) : Prop := splitWord (encode i) = i.fields ∧ WellFormed i = true

/-- Splitting undoes joining. -/
theorem split_join (op : BitVec 8) (reg : RegIdx) (data : Word) :
    splitWord (joinFields op reg data) = { op := op, reg := reg, data := data } := by
  simp only [splitWord, joinFields, CommandFields.mk.injEq]
  have h1 := op.isLt
  have h2 := reg.isLt
  have h3 := data.isLt
  have hn : (op ++ reg ++ data : CmdWord).toNat =
      (op.toNat * 256 + reg.toNat) * 4294967296 + data.toNat := by
    rw [BitVec.toNat_append, BitVec.toNat_append, ← Nat.shiftLeft_add_eq_or_of_lt h3,
      ← Nat.shiftLeft_add_eq_or_of_lt h2, Nat.shiftLeft_eq, Nat.shiftLeft_eq]
  refine ⟨?_, ?_, ?_⟩ <;> apply BitVec.eq_of_toNat_eq <;>
    rw [BitVec.extractLsb'_toNat, hn, Nat.shiftRight_eq_div_pow] <;> omega

theorem nop : Statement .nop := by unfold Statement; decide

theorem wr (reg : RegIdx) (data : Word) : Statement (.wr reg data) :=
  ⟨split_join _ _ _, by simp [WellFormed, CommandFields.legal, Instr.fields,
    CommandFields.opcodeDefined, CommandFields.formatZOperandsZero, CommandFields.formatRDataZero]⟩

theorem rd (reg : RegIdx) : Statement (.rd reg) :=
  ⟨split_join _ _ _, by simp [WellFormed, CommandFields.legal, Instr.fields,
    CommandFields.opcodeDefined, CommandFields.formatZOperandsZero, CommandFields.formatRDataZero]⟩

theorem step : Statement .step := by unfold Statement; decide

theorem route : Statement .route := by unfold Statement; decide

theorem tick : Statement .tick := by unfold Statement; decide

theorem init : Statement .init := by unfold Statement; decide

end Sys2Proof.Laws.FieldsOfWord
end

