-- ==== Sys2Proof/Laws/Registers.lean ====
section
/-! SUPPORT. What a WR writes and what a RD answers, once. -/

namespace Sys2Proof.Machine

variable {α : Type}

/-- A WR that writes a register writes one of the thirteen RW registers and nothing else: STATUS, the
read-only registers and DL stay. -/
theorem writeRegisterAs_frame {O : Numerics α} {c : Config} {b b' : BlockState α} {reg : RegIdx}
    {data : Word} {v : α} (h : writeRegisterAs O c b reg data v = some b') :
    b'.dl = b.dl ∧ b'.status = b.status ∧ b'.yOut = b.yOut ∧ b'.curDelay = b.curDelay ∧
      b'.wrIdx = b.wrIdx ∧ b'.taY0 = b.taY0 ∧ b'.tbY0 = b.tbY0 ∧ b'.dcX1 = b.dcX1 ∧
      b'.dcY1 = b.dcY1 := by
  unfold writeRegisterAs at h
  split at h
  case h_8 =>
    obtain ⟨m, _, rfl⟩ := Option.map_eq_some_iff.mp h
    simp
  all_goals (cases h <;> exact ⟨rfl, rfl, rfl, rfl, rfl, rfl, rfl, rfl, rfl⟩)

theorem writeRegister_frame {c : Config} {b b' : BlockState F32} {reg : RegIdx} {data : Word}
    (h : writeRegister c b reg data = some b') :
    b'.dl = b.dl ∧ b'.status = b.status ∧ b'.yOut = b.yOut ∧ b'.curDelay = b.curDelay ∧
      b'.wrIdx = b.wrIdx ∧ b'.taY0 = b.taY0 ∧ b'.tbY0 = b.tbY0 ∧ b'.dcX1 = b.dcX1 ∧
      b'.dcY1 = b.dcY1 :=
  writeRegisterAs_frame h

/-- The registers of 10_state.md R12 are mapped, and no other index is, in either number type. -/
theorem readRegisterAs_isSome (toBits : α → Word) (b : BlockState α) (reg : RegIdx) :
    (readRegisterAs toBits b reg).isSome = true ↔
      reg.toNat ≤ 0x0C ∨ (0x10 ≤ reg.toNat ∧ reg.toNat ≤ 0x17) ∨ reg.toNat = 0x1F := by
  unfold readRegisterAs
  split <;> simp_all <;> omega

theorem readRegister_isSome (b : BlockState F32) (reg : RegIdx) :
    (readRegister b reg).isSome = true ↔
      reg.toNat ≤ 0x0C ∨ (0x10 ≤ reg.toNat ∧ reg.toNat ≤ 0x17) ∨ reg.toNat = 0x1F :=
  readRegisterAs_isSome numToBits b reg

theorem modeOfWord_modeWord (m : Mode) : modeOfWord (modeWord m) = some m := by
  cases m <;> rfl

/-- Bits [31:2] of MODE read 0, and no mode reads as 3 (10_state.md R23). -/
theorem modeWord_toNat_lt (m : Mode) : (modeWord m).toNat < 3 := by
  cases m <;> decide

end Sys2Proof.Machine
end

