-- ==== Sys2Proof/Laws/Rounding.lean ====
section
/-! SUPPORT. The rounding of 40_numerics.md R78, once and for all: `lt_roundUnits` says above which
midpoints the rounded pattern lies, ties to even. That it is monotone and exact on binary32 values are
corollaries. -/

namespace Sys2Proof.Machine

/-- The value of the low 31 bits of a pattern, in units of 2^-149 (40_numerics.md R75). -/
def lowUnits (low : Nat) : Nat :=
  if low / 8388608 = 0 then low % 8388608
  else (8388608 + low % 8388608) * 2 ^ (low / 8388608 - 1)

theorem f32Magnitude_eq (a : F32) : f32Magnitude a = lowUnits (a.toNat % 2147483648) := by
  have h1 : f32Exponent a = a.toNat % 2147483648 / 8388608 := by unfold f32Exponent; omega
  have h2 : f32Fraction a = a.toNat % 2147483648 % 8388608 := by unfold f32Fraction; omega
  simp [f32Magnitude, lowUnits, h1, h2]

theorem f32Magnitude_pack (n : Bool) {low : Nat} (h : low < 2147483648) :
    f32Magnitude (f32Pack n low) = lowUnits low := by
  rw [f32Magnitude_eq, f32Pack_toNat n h]
  congr 1
  cases n <;> simp <;> omega

/-- A pattern as a significand and a shift: `m * 2^s` with a full significand unless the shift is 0. -/
theorem lowUnits_shift (s m : Nat) (hm : m < 16777216) (hs : s = 0 ∨ 8388608 ≤ m) :
    lowUnits (s * 8388608 + m) = m * 2 ^ s := by
  unfold lowUnits
  by_cases h : m < 8388608
  · have h0 : s = 0 := by omega
    subst h0
    have h1 : (0 * 8388608 + m) / 8388608 = 0 := by omega
    have h2 : (0 * 8388608 + m) % 8388608 = m := by omega
    rw [if_pos h1, h2, pow_zero, Nat.mul_one]
  · have h1 : (s * 8388608 + m) / 8388608 = s + 1 := by omega
    have h2 : (s * 8388608 + m) % 8388608 = m - 8388608 := by omega
    rw [h1, h2, if_neg (Nat.succ_ne_zero s), Nat.add_sub_cancel]
    have h3 : 8388608 + (m - 8388608) = m := by omega
    rw [h3]

/-- The same at the first pattern of the next binade. -/
theorem lowUnits_shift_succ (s m : Nat) (hm : m < 16777216) (hs : s = 0 ∨ 8388608 ≤ m) :
    lowUnits (s * 8388608 + m + 1) = (m + 1) * 2 ^ s := by
  by_cases h : m + 1 < 16777216
  · rw [Nat.add_assoc]
    exact lowUnits_shift s (m + 1) h (by omega)
  · have h1 : m = 16777215 := by omega
    subst h1
    have := lowUnits_shift (s + 1) 8388608 (by decide) (.inr (Nat.le_refl _))
    have h2 : s * 8388608 + 16777215 + 1 = (s + 1) * 8388608 + 8388608 := by omega
    rw [h2, this, pow_succ]
    omega

theorem exists_shift (low : Nat) :
    ∃ s m, low = s * 8388608 + m ∧ m < 16777216 ∧ (s = 0 ∨ 8388608 ≤ m) := by
  by_cases h : low < 8388608
  · exact ⟨0, low, by omega, by omega, .inl rfl⟩
  · refine ⟨low / 8388608 - 1, 8388608 + low % 8388608, by omega, by omega, .inr (by omega)⟩

theorem lowUnits_lt_succ (low : Nat) : lowUnits low < lowUnits (low + 1) := by
  obtain ⟨s, m, rfl, hm, hs⟩ := exists_shift low
  rw [lowUnits_shift s m hm hs, lowUnits_shift_succ s m hm hs]
  exact Nat.mul_lt_mul_of_pos_right (Nat.lt_succ_self m) (Nat.two_pow_pos s)

theorem lowUnits_strictMono : StrictMono lowUnits := strictMono_nat_of_lt_succ lowUnits_lt_succ

/-- Round half to even: above which half the rounded quotient lies. -/
theorem lt_roundHalfEven {p d k : Nat} (hd : 0 < d) :
    k < roundHalfEven p d ↔ (2 * k + 1) * d < 2 * p ∨ ((2 * k + 1) * d = 2 * p ∧ k % 2 = 1) := by
  have hp : p = d * (p / d) + p % d := (Nat.div_add_mod p d).symm
  have hr : p % d < d := Nat.mod_lt p hd
  unfold roundHalfEven
  generalize p / d = q at *
  generalize p % d = r at *
  subst hp
  simp only [Bool.or_eq_true, Bool.and_eq_true, decide_eq_true_eq]
  rcases Nat.lt_trichotomy k q with h | h | h
  · have h1 : (2 * k + 1) * d < 2 * (d * q + r) := by nlinarith
    have h2 : k < q + 1 := by omega
    constructor
    · intro _; exact .inl h1
    · intro _; split <;> omega
  · subst h
    have h1 : (2 * k + 1) * d = 2 * (d * k) + d := by ring
    rw [h1]
    split <;> omega
  · have h1 : 2 * (d * q + r) < (2 * k + 1) * d := by nlinarith
    constructor
    · intro h2
      exfalso
      split at h2 <;> omega
    · intro h2
      omega

theorem roundHalfEven_le {p d k : Nat} (hd : 0 < d) (h : p < d * k) : roundHalfEven p d ≤ k := by
  by_contra hc
  have hc' : k < roundHalfEven p d := by omega
  rw [lt_roundHalfEven hd] at hc'
  rcases hc' with h' | h' <;> nlinarith [h', h]

theorem le_roundHalfEven {p d k : Nat} (hd : 0 < d) (h : d * k ≤ p) : k ≤ roundHalfEven p d := by
  rcases Nat.eq_zero_or_pos k with hk | hk
  · omega
  · obtain ⟨j, rfl⟩ : ∃ j, k = j + 1 := ⟨k - 1, by omega⟩
    have : j < roundHalfEven p d := by
      rw [lt_roundHalfEven hd]
      left
      nlinarith
    omega

/-- The pattern before the cap at infinity, with the size of its significand. -/
theorem roundUnits_form {p d : Nat} (hd : 0 < d) (h : Nat.log2 (p / d) < 277) :
    ∃ s m, roundUnits p d = s * 8388608 + m ∧ m = roundHalfEven p (d * 2 ^ s) ∧
      m ≤ 16777216 ∧ (s = 0 ∨ d * 2 ^ (s + 23) ≤ p) ∧ p < d * 2 ^ (s + 24) := by
  have hlt : p / d < 2 ^ (Nat.log2 (p / d) + 1) := Nat.lt_log2_self
  have hp : p < d * 2 ^ (Nat.log2 (p / d) + 1) := by
    rw [Nat.mul_comm]; exact (Nat.div_lt_iff_lt_mul hd).mp hlt
  have hge : p / d ≠ 0 → d * 2 ^ Nat.log2 (p / d) ≤ p := fun hne => by
    rw [Nat.mul_comm]; exact (Nat.le_div_iff_mul_le hd).mp (Nat.log2_self_le hne)
  generalize htop : Nat.log2 (p / d) = top at *
  refine ⟨top - 23, roundHalfEven p (d * 2 ^ (top - 23)), ?_, rfl, ?_, ?_, ?_⟩
  · unfold roundUnits
    rw [htop]
    simp only
    rw [if_neg (by omega)]
    apply Nat.min_eq_left
    have hm : roundHalfEven p (d * 2 ^ (top - 23)) ≤ 16777216 := by
      apply roundHalfEven_le (Nat.mul_pos hd (Nat.two_pow_pos _))
      calc p < d * 2 ^ (top + 1) := hp
        _ ≤ d * 2 ^ (top - 23 + 24) := Nat.mul_le_mul_left d (Nat.pow_le_pow_right (by decide) (by omega))
        _ = d * 2 ^ (top - 23) * 16777216 := by rw [pow_add]; ring
    omega
  · apply roundHalfEven_le (Nat.mul_pos hd (Nat.two_pow_pos _))
    calc p < d * 2 ^ (top + 1) := hp
      _ ≤ d * 2 ^ (top - 23 + 24) := Nat.mul_le_mul_left d (Nat.pow_le_pow_right (by decide) (by omega))
      _ = d * 2 ^ (top - 23) * 16777216 := by rw [pow_add]; ring
  · by_cases h23 : top ≤ 23
    · left; omega
    · right
      have hne : p / d ≠ 0 := by
        intro h0
        rw [h0] at htop
        have : Nat.log2 0 = 0 := by decide
        omega
      have := hge hne
      have h3 : top - 23 + 23 = top := by omega
      rw [h3]
      exact this
  · calc p < d * 2 ^ (top + 1) := hp
      _ ≤ d * 2 ^ (top - 23 + 24) := Nat.mul_le_mul_left d (Nat.pow_le_pow_right (by decide) (by omega))

/-- The rounding law: a pattern below the infinity's lies strictly below the rounded one exactly when the
midpoint above it lies below the exact value, or on it with the pattern's own significand odd. Both sides
are in half units times `d`. At the largest finite pattern it is the overflow threshold of R78. -/
theorem lt_roundUnits {p d low : Nat} (hd : 0 < d) (hl : low < 0x7F800000) :
    low < roundUnits p d ↔
      (lowUnits low + lowUnits (low + 1)) * d < 2 * p ∨
      ((lowUnits low + lowUnits (low + 1)) * d = 2 * p ∧ low % 2 = 1) := by
  obtain ⟨t, n, hlow, hn, ht⟩ := exists_shift low
  have hmid : lowUnits low + lowUnits (low + 1) = (2 * n + 1) * 2 ^ t := by
    rw [hlow, lowUnits_shift t n hn ht, lowUnits_shift_succ t n hn ht]; ring
  rw [hmid]
  by_cases htop : Nat.log2 (p / d) < 277
  · obtain ⟨s, m, hr, hm, hm24, hs, hp⟩ := roundUnits_form hd htop
    rw [hr]
    rcases Nat.lt_trichotomy t s with hts | hts | hts
    · have hs' : d * 2 ^ (s + 23) ≤ p := by
        rcases hs with h | h
        · omega
        · exact h
      have hm23 : 8388608 ≤ m := by
        rw [hm]
        apply le_roundHalfEven (Nat.mul_pos hd (Nat.two_pow_pos _))
        calc d * 2 ^ s * 8388608 = d * 2 ^ (s + 23) := by rw [pow_add]; ring
          _ ≤ p := hs'
      have h1 : low < s * 8388608 + m := by omega
      have h2 : 2 ^ t * 2 ≤ 2 ^ s := by
        rw [← pow_succ]; exact Nat.pow_le_pow_right (by decide) hts
      have h3 : (2 * n + 1) * 2 ^ t * d < 2 * p := by
        have h4 : (2 * n + 1) * 2 ^ t < 16777216 * 2 ^ s := by
          have := Nat.two_pow_pos t
          nlinarith
        have h5 : 16777216 * 2 ^ s * d ≤ 2 * p := by
          have : d * 2 ^ (s + 23) = 8388608 * (2 ^ s * d) := by rw [pow_add]; ring
          nlinarith
        calc (2 * n + 1) * 2 ^ t * d < 16777216 * 2 ^ s * d := Nat.mul_lt_mul_of_pos_right h4 hd
          _ ≤ 2 * p := h5
      exact ⟨fun _ => .inl h3, fun _ => h1⟩
    · subst hts
      have h1 : low < t * 8388608 + m ↔ n < m := by omega
      rw [h1, hm, lt_roundHalfEven (Nat.mul_pos hd (Nat.two_pow_pos _))]
      have h2 : (2 * n + 1) * (d * 2 ^ t) = (2 * n + 1) * 2 ^ t * d := by ring
      have h3 : n % 2 = low % 2 := by omega
      rw [h2, h3]
    · have h1 : ¬ low < s * 8388608 + m := by omega
      have hn23 : 8388608 ≤ n := by omega
      have h2 : 2 ^ s * 2 ≤ 2 ^ t := by
        rw [← pow_succ]; exact Nat.pow_le_pow_right (by decide) hts
      have h3 : 2 * p < (2 * n + 1) * 2 ^ t * d := by
        have h4 : 33554432 * 2 ^ s ≤ (2 * n + 1) * 2 ^ t := by nlinarith
        have h5 : 2 * p < 33554432 * 2 ^ s * d := by
          have : d * 2 ^ (s + 24) = 16777216 * (2 ^ s * d) := by rw [pow_add]; ring
          nlinarith
        calc 2 * p < 33554432 * 2 ^ s * d := h5
          _ ≤ (2 * n + 1) * 2 ^ t * d := Nat.mul_le_mul_right d h4
      constructor
      · intro h; exact absurd h h1
      · intro h; omega
  · have hr : roundUnits p d = 0x7F800000 := by
      unfold roundUnits
      simp only
      rw [if_pos (by omega)]
    rw [hr]
    have hne : p / d ≠ 0 := by
      intro h0
      rw [h0] at htop
      exact htop (by decide)
    have hge : d * 2 ^ Nat.log2 (p / d) ≤ p := by
      rw [Nat.mul_comm]; exact (Nat.le_div_iff_mul_le hd).mp (Nat.log2_self_le hne)
    have ht254 : t ≤ 253 := by omega
    have h1 : (2 * n + 1) * 2 ^ t < 2 ^ 278 := by
      have h2 : 2 ^ t ≤ 2 ^ 253 := Nat.pow_le_pow_right (by decide) ht254
      calc (2 * n + 1) * 2 ^ t ≤ 33554431 * 2 ^ t := Nat.mul_le_mul_right _ (by omega)
        _ ≤ 33554431 * 2 ^ 253 := Nat.mul_le_mul_left _ h2
        _ < 2 ^ 25 * 2 ^ 253 := Nat.mul_lt_mul_of_pos_right (by decide) (Nat.two_pow_pos _)
        _ = 2 ^ 278 := (pow_add 2 25 253).symm
    have h2 : 2 ^ 277 * d ≤ p := by
      calc 2 ^ 277 * d ≤ 2 ^ Nat.log2 (p / d) * d :=
            Nat.mul_le_mul_right d (Nat.pow_le_pow_right (by decide) (by omega))
        _ = d * 2 ^ Nat.log2 (p / d) := Nat.mul_comm _ _
        _ ≤ p := hge
    have h3 : (2 * n + 1) * 2 ^ t * d < 2 * p := by
      calc (2 * n + 1) * 2 ^ t * d < 2 ^ 278 * d := Nat.mul_lt_mul_of_pos_right h1 hd
        _ = 2 * (2 ^ 277 * d) := by rw [show (278 : Nat) = 277 + 1 from rfl, pow_succ]; ring
        _ ≤ 2 * p := Nat.mul_le_mul_left 2 h2
    exact ⟨fun _ => .inl h3, fun _ => hl⟩

/-- Rounding is monotone in the exact value. -/
theorem roundUnits_mono {p d p' d' : Nat} (hd : 0 < d) (hd' : 0 < d') (h : p * d' ≤ p' * d) :
    roundUnits p d ≤ roundUnits p' d' := by
  by_contra hc
  have hlt : roundUnits p' d' < roundUnits p d := by omega
  have hl : roundUnits p' d' < 0x7F800000 := Nat.lt_of_lt_of_le hlt (roundUnits_le p d)
  have h1 := (lt_roundUnits hd hl).mp hlt
  have h2 : ¬ roundUnits p' d' < roundUnits p' d' := Nat.lt_irrefl _
  rw [lt_roundUnits hd' hl] at h2
  apply h2
  generalize lowUnits (roundUnits p' d') + lowUnits (roundUnits p' d' + 1) = M at *
  rcases h1 with h1 | ⟨h1, hodd⟩
  · left
    have : M * d * d' < 2 * (p' * d) := by nlinarith
    have : M * d' * d < 2 * p' * d := by nlinarith
    exact Nat.lt_of_mul_lt_mul_right this
  · have : M * d' * d ≤ 2 * p' * d := by nlinarith
    have := Nat.le_of_mul_le_mul_right this hd
    rcases Nat.lt_or_eq_of_le this with h3 | h3
    · exact .inl h3
    · exact .inr ⟨h3, hodd⟩

/-- Rounding is the identity on binary32 values. -/
theorem roundUnits_exact {low d : Nat} (hd : 0 < d) (hl : low < 0x7F800000) :
    roundUnits (lowUnits low * d) d = low := by
  apply Nat.le_antisymm
  · by_contra hc
    have hlt : low < roundUnits (lowUnits low * d) d := by omega
    rw [lt_roundUnits hd hl] at hlt
    have := lowUnits_lt_succ low
    rcases hlt with h | h <;> nlinarith [h]
  · rcases Nat.eq_zero_or_pos low with h0 | h0
    · omega
    · obtain ⟨j, rfl⟩ : ∃ j, low = j + 1 := ⟨low - 1, by omega⟩
      have : j < roundUnits (lowUnits (j + 1) * d) d := by
        rw [lt_roundUnits hd (by omega)]
        left
        have := lowUnits_lt_succ j
        nlinarith
      omega

end Sys2Proof.Machine
end

