-- ==== Sys2Proof/Tests/Slice0.lean ====
section
/-! SUPPORT. Tests with values from the spec (95_test_vectors.md and the worked examples of the rules), and
for every statement with hypotheses a theorem that shows a case meeting them. -/

namespace Sys2Proof.Tests

open Sys2Proof.Machine

-- One kernel evaluation at a time: many at once ask for more threads than a bounded process has.
set_option Elab.async false

/-! ### Well-formedness: one ill-formed term for each check -/

/-- 30_encoding.md R66 (a): opcode 0x07. -/
theorem test_wellformed_refuses_opcode :
    CommandFields.opcodeDefined { op := 0x07#8, reg := 0#8, data := 0#32 } = false ∧
      CommandFields.legal { op := 0x07#8, reg := 0#8, data := 0#32 } = false := by decide

/-- 30_encoding.md R66 (b): NOP with an index, STEP with data. -/
theorem test_wellformed_refuses_operand :
    CommandFields.formatZOperandsZero { op := 0x00#8, reg := 1#8, data := 0#32 } = false ∧
      CommandFields.legal { op := 0x00#8, reg := 1#8, data := 0#32 } = false ∧
      CommandFields.legal { op := 0x03#8, reg := 0#8, data := 1#32 } = false := by decide

/-- 30_encoding.md R66 (c): RD with data. -/
theorem test_wellformed_refuses_read_data :
    CommandFields.formatRDataZero { op := 0x02#8, reg := 0x10#8, data := 1#32 } = false ∧
      CommandFields.legal { op := 0x02#8, reg := 0x10#8, data := 1#32 } = false := by decide

/-! ### Decoding: words written out from 30_encoding.md R58 and R60 (95_test_vectors.md 2.11) -/

theorem test_decode_nop : decode 0x000000000000#48 = .ok .nop := by decide
theorem test_decode_wr : decode 0x01003F800000#48 = .ok (.wr 0x00#8 0x3F800000#32) := by decide
theorem test_decode_wr_unmapped : decode 0x012000000005#48 = .ok (.wr 0x20#8 5#32) := by decide
theorem test_decode_rd : decode 0x021F00000000#48 = .ok (.rd 0x1F#8) := by decide
theorem test_decode_step : decode 0x030000000000#48 = .ok .step := by decide
theorem test_decode_route : decode 0x040000000000#48 = .ok .route := by decide
theorem test_decode_tick : decode 0x050000000000#48 = .ok .tick := by decide
theorem test_decode_init : decode 0x060000000000#48 = .ok .init := by decide

theorem test_decode_illegal :
    decode 0x021000000001#48 = .error .readDataNotZero ∧
      decode 0x030000000001#48 = .error .operandNotZero ∧
      decode 0x000100000000#48 = .error .operandNotZero ∧
      decode 0x070000000000#48 = .error .undefinedOpcode ∧
      decode 0xFFFFFFFFFFFF#48 = .error .undefinedOpcode := by decide

/-- 20_memory.md R43: the least significant byte first. -/
theorem test_decode_bytes :
    decodeBytes [0x00#8, 0x00#8, 0x80#8, 0x3F#8, 0x00#8, 0x01#8, 0x07#8] =
      .ok (.wr 0x00#8 0x3F800000#32, [0x07#8]) ∧
    decodeBytes [0x00#8, 0x00#8, 0x80#8, 0x3F#8, 0x00#8] = .error .truncated := by decide

/-- 20_memory.md R43 for the response word. -/
theorem test_response_bytes :
    bytesOfResponse 0x46444901#32 = [0x01#8, 0x49#8, 0x44#8, 0x46#8] ∧
      responseOfBytes [0x01#8, 0x49#8, 0x44#8, 0x46#8, 0xAA#8] = some (0x46444901#32, [0xAA#8]) ∧
      responseOfBytes [0x01#8, 0x49#8, 0x44#8] = none := by decide

theorem test_decode_table_word :
    decodeTableWord 48 0x0108FFFFFFFD = some (.wr 0x08#8 0xFFFFFFFD#32) ∧
      decodeTableWord 48 0x060000000001 = none := by decide

/-- 95_test_vectors.md, programs P1 and P3: the words of its commands. -/
theorem test_encode :
    encode (.wr 0x09#8 0x10000000#32) = 0x010910000000#48 ∧
      encode (.rd 0x13#8) = 0x021300000000#48 ∧ encode .tick = 0x050000000000#48 := by decide

/-- 30_encoding.md R70 and R71 (programs P1, P3, P4 of 95_test_vectors.md). -/
theorem test_assemble :
    assemble "wr X_IN, 1.0f  # sample\n\ntick" = some [0x01003F800000#48, 0x050000000000#48] ∧
      assemble "WR LFO_A_INC, 35791" = some [0x010900008BCF#48] ∧
      assemble "wr REV_IN, -0.25f" = some [0x0101BE800000#48] ∧
      assemble "rd 0x0D" = some [0x020D00000000#48] := by decide +kernel

theorem test_assemble_pseudo :
    assemble "rsample 0, -0.25f" =
        some [0x010000000000#48, 0x030000000000#48, 0x0101BE800000#48, 0x040000000000#48] ∧
      assemble "mode reverse" = some [0x010700000001#48] ∧
      assemble "ctl 5.25f, 0.5f, 100.0f, 4.0f" =
        some [0x010340A80000#48, 0x01053F000000#48, 0x010442C80000#48, 0x010640800000#48] ∧
      assemble "hop" = none := by decide +kernel

/-! ### Numbers -/

/-- 95_test_vectors.md 2.1: the primitive operations. -/
theorem test_primitives :
    f32Add 0 0x3DCCCCCD#32 0x3E4CCCCD#32 = 0x3E99999A#32 ∧
      f32Add 0 0x3F800000#32 0x33800000#32 = 0x3F800000#32 ∧
      f32Add 0 0x3F800000#32 0x33800080#32 = 0x3F800001#32 ∧
      f32Add 0 0x7F7FFFFF#32 0x7F7FFFFF#32 = 0x7F800000#32 ∧
      f32Mul 0 0x3FA66666#32 0x3FA66666#32 = 0x3FD851EA#32 ∧
      f32Mul 0 0x1E3CE508#32 0x1E3CE508#32 = 0x000116C2#32 ∧
      f32Div 0 0x40000000#32 0x40400000#32 = 0x3F2AAAAB#32 ∧
      f32Sub 0 0x40A80000#32 0x40A00000#32 = 0x3E800000#32 ∧
      f32Mul 0 0x80000000#32 0x3F000000#32 = 0x80000000#32 := by decide +kernel

/-- 95_test_vectors.md 2.1: `clampN` with NaN and the infinities. -/
theorem test_clamp :
    clampN builtNum 0x7FC00000#32 0x40000000#32 0x41600000#32 = 0x40000000#32 ∧
      clampN builtNum 0xFF800000#32 0x40000000#32 0x41600000#32 = 0x40000000#32 ∧
      clampN builtNum 0x7F800000#32 0x40000000#32 0x41600000#32 = 0x41600000#32 ∧
      clampN builtNum 0x40A80000#32 0x40000000#32 0x41600000#32 = 0x40A80000#32 := by decide +kernel

/-- 95_test_vectors.md 2.3: the interpolator, the largest overshoot and a ramp. -/
theorem test_hermite :
    hermite builtNum 0x00000000#32 0x3F800000#32 0x00000000#32 0x00000000#32 0x3E800000#32 =
        0x3F5E0000#32 ∧
      hermite builtNum 0xBF800000#32 0x3F800000#32 0x3F800000#32 0xBF800000#32 0x3F000000#32 =
        0x3FA00000#32 ∧
      hermite builtNum 0x3DCCCCCD#32 0x3E4CCCCD#32 0x3E99999A#32 0x3ECCCCCD#32 0x3F400000#32 =
        0x3E8CCCCD#32 := by decide +kernel

/-- 95_test_vectors.md 2.2: downward, upward, and the stall below half a unit in the last place. -/
theorem test_slew :
    slew builtNum 0x39800000#32 0x41000000#32 0x40800000#32 = 0x40FFF800#32 ∧
      slew builtNum 0x39800000#32 0x41000000#32 0x41600000#32 = 0x41000600#32 ∧
      slew builtNum 0x39800000#32 0x473B8000#32 0x473B8400#32 = 0x473B8000#32 := by decide +kernel

/-- 95_test_vectors.md 2.5: the non-canonical high-pass, and stage B's first call. -/
theorem test_onepole :
    onepole builtNum 0x00000000#32 0x3F000000#32 0x3F800000#32 true =
        (0x3F000000#32, 0xBF000000#32) ∧
      onepole builtNum 0x00000000#32 0x3C9ACDF2#32 0x3F800000#32 true =
        (0x3C9ACDF2#32, 0xBF7B2990#32) := by decide +kernel

/-- 95_test_vectors.md 2.6: the DC blocker's second and third output for a constant input. -/
theorem test_dc_block :
    (dcBlock builtNum { State.reset.toBlockState with dcX1 := 0x3F800000#32, dcY1 := 0x3F800000#32 }
        0x3F800000#32).2 = 0x3F7EB852#32 ∧
      (dcBlock builtNum { State.reset.toBlockState with dcX1 := 0x3F800000#32, dcY1 := 0x3F7EB852#32 }
        0x3F800000#32).2 = 0x3F7D7247#32 := by decide +kernel

/-- 95_test_vectors.md 2.7, 2.8: `sat` and `lim` beside the tables of the rules. -/
theorem test_sat_lim :
    sat builtNum 0x403FFE5D#32 = 0x3F7FFFFF#32 ∧ sat builtNum 0xC0400000#32 = 0xBF800000#32 ∧
      sat builtNum 0x1E3CE508#32 = 0x1E3CE508#32 ∧ sat builtNum 0x80000000#32 = 0x80000000#32 ∧
      lim builtNum 0xC0400000#32 = 0xBFD55555#32 ∧ lim builtNum 0xF149F2CA#32 = 0xC0000000#32 := by
  decide +kernel

/-- 95_test_vectors.md 2.9: two calls of `flutter()` and the wrap of a phase. -/
theorem test_flutter :
    (flutter builtNum { State.reset.toBlockState with
        flutDepth := 0x40800000#32, lfoAInc := 0x10000000#32, lfoBInc := 0x20000000#32 }).2 =
      0x3FEAAAAB#32 ∧
    (flutter builtNum { State.reset.toBlockState with flutDepth := 0x42700000#32 }).2 = 0x3C0AFBD0#32 ∧
    (lfoAdvance { State.reset.toBlockState with phA := 0xFFFF8431#32 }).phA = 0x00001000#32 := by
  decide +kernel

/-- REAL values of 41_delay_line.md R106, 42_tone_filter_chain.md R116, 43_saturator_limiter.md R127 and
95_test_vectors.md 2.9. -/
theorem test_real_values :
    hermite realNum 0 1 0 0 (1 / 4) = 111 / 128 ∧ coef realNum Config.default 147 = 49 / 2593 ∧
      sat realNum (13 / 10) = 37297 / 42210 ∧ lim realNum 400 = 799 / 400 ∧
      wavePar realNum 0x12345678#32 = 2146159115463 / 4398046511104 ∧
      waveTri realNum 0x9ABCDEF0#32 = -876143 / 2097152 := by decide +kernel

/-- 46_tape_head_step.md R167: the eighth STEP of program P1 over REAL. -/
theorem test_real_step :
    ((realStep Config.default
        { realReset Config.default with dl := [(0, 37297 / 42210)], wrIdx := 7#32 }).map
      fun b => (b.taY0, b.yOut)) = some (2648087 / 3955680, -140348611 / 213689130) := by
  decide +kernel

/-- 10_state.md R15, 40_numerics.md R84, over REAL: a legalised WR (47_host_access.md R177) read back, a WR
that REAL cannot express, and the response of program P1's eighth STEP. -/
theorem test_real_commands :
    ((realCommand Config.default 0x010342C80000#48 (realReset Config.default)).map
        fun t => (t.1.delayTarget, realRd 0x03#8 t.1)) =
      some (14, ({ realReset Config.default with delayTarget := 14 }, 0x41600000#32)) ∧
    realCommand Config.default 0x01037FC00000#48 (realReset Config.default) = none ∧
    ((realCommand Config.default 0x030000000001#48 (realReset Config.default)).map
        fun t => (t.1.status, t.2)) = some (0b010#3, 0#32) ∧
    ((realExec Config.default .step
        { realReset Config.default with dl := [(0, 37297 / 42210)], wrIdx := 7#32 }).map
      fun t => t.2) = some (f32OfRat (-140348611 / 213689130)) := by decide +kernel

/-! ### Steps -/

/-- A check of the next state; false for a fault or a refusal. -/
def nextHolds (o : Host.Outcome State Fault Refusal) (p : State → Bool) : Bool :=
  match o with
  | .next t => p t
  | .fault _ => false
  | .refused _ => false

/-- The reset state with the index and the delay placed. -/
def placed (w : Word) (delay : F32) : State :=
  { State.reset with wrIdx := w, curDelay := delay, delayTarget := delay }

/-- 95_test_vectors.md P1, before its eighth STEP. -/
def beforeEcho : State := { placed 7#32 0x41000000#32 with dl := [(0, 0x3F6233FE#32)] }

/-- The reset state with the operands of ROUTE placed, and an old FB of 7.0 (95_test_vectors.md 2.10). -/
def routed (m : Mode) (y rev g : F32) : State :=
  { State.reset with mode := m, yOut := y, revIn := rev, fbGain := g, fb := 0x40E00000#32 }

theorem test_nop :
    nextHolds (step ((placed 3#32 0x40A00000#32).withFetchWord 48 0x000000000000))
      (fun t => t = { placed 3#32 0x40A00000#32 with rsp := some 0#32 }) = true := by decide +kernel

/-- 47_host_access.md R177. -/
theorem test_wr_clamps :
    nextHolds (step (State.reset.withFetchWord 48 0x010342C80000))
      (fun t => t.delayTarget = 0x41600000#32 && t.curDelay = 0x41000000#32 && t.status = 0#3) = true ∧
    nextHolds (step (State.reset.withFetchWord 48 0x01057FC00000))
      (fun t => t.fbGain = 0#32 && t.status = 0#3) = true := by decide +kernel

/-- 47_host_access.md R172, R173. -/
theorem test_wr_badreg :
    nextHolds (step (State.reset.withFetchWord 48 0x011100000000))
      (fun t => t.status = 0b100#3 && t.rsp = some 0#32) = true ∧
    nextHolds (step (State.reset.withFetchWord 48 0x010700000100))
      (fun t => t.status = 0b100#3 && t.mode = .forward) = true := by decide +kernel

/-- 47_host_access.md R174. -/
theorem test_rd_cur_delay :
    nextHolds (step (State.reset.withFetchWord 48 0x021200000000))
      (fun t => t.rsp = some 0x41000000#32 && t.status = 0#3) = true := by decide +kernel

/-- 47_host_access.md R175. -/
theorem test_rd_unmapped :
    nextHolds (step (State.reset.withFetchWord 48 0x020D00000000))
      (fun t => t.rsp = some 0#32 && t.status = 0b100#3) = true := by decide +kernel

/-- 46_tape_head_step.md R167: the first STEP. -/
theorem test_step_first :
    nextHolds (exec .step { State.reset with xIn := 0x3F800000#32 })
      (fun t => t.dl = [(0, 0x3F6233FE#32)] && t.wrIdx = 1#32 && t.phA = 0x00008BCF#32 &&
        t.rsp = some 0#32 && t.status = 0#3) = true := by decide +kernel

/-- 95_test_vectors.md P1, STEP 8: the echo, with inverted sign. -/
theorem test_step_echo :
    nextHolds (exec .step beforeEcho)
      (fun t => t.taY0 = 0x3F2B605E#32 && t.dcX1 = 0xBF28234F#32 && t.rsp = some 0xBF28234F#32) =
      true := by decide +kernel

/-- 95_test_vectors.md 2.10. -/
theorem test_route_modes :
    nextHolds (exec .route (routed .forward 0x3F000000#32 0x41100000#32 0x3F000000#32))
      (fun t => t.fb = 0x3E800000#32 && t.rsp = some 0x3E800000#32 && t.status = 0#3) = true ∧
    nextHolds (exec .route (routed .reverse 0x3F000000#32 0xBE800000#32 0x3F99999A#32))
      (fun t => t.fb = 0xBE99999A#32) = true ∧
    nextHolds (exec .route (routed .freeze 0x40000000#32 0#32 0#32))
      (fun t => t.fb = 0x3FD9999A#32) = true := by decide +kernel

/-- 95_test_vectors.md 2.10: the product overflows. -/
theorem test_route_overflow :
    nextHolds (exec .route (routed .reverse 0#32 0x7F7FFFFF#32 0x3F99999A#32))
      (fun t => t.fb = 0x7F800000#32 && t.status = 0b001#3) = true := by decide +kernel

/-- 95_test_vectors.md P1, line 10: the response is Y_OUT, and FB is -0.0. -/
theorem test_tick_echo :
    nextHolds (exec .tick beforeEcho)
      (fun t => t.rsp = some 0xBF28234F#32 && t.fb = 0x80000000#32) = true := by decide +kernel

/-- 41_delay_line.md R101: WR_IDX wraps from N - 1 to 0. -/
theorem test_tick_wraps :
    nextHolds (exec .tick { placed 15#32 0x41000000#32 with fb := 0x3F800000#32 })
      (fun t => t.wrIdx = 0#32 && t.dl = [(15, 0x3F6233FE#32)]) = true := by decide +kernel

/-- 47_host_access.md R176: INIT, on a block of another size. -/
theorem test_init :
    nextHolds (exec .init { State.resetWith { Config.default with n := 20 } with
        status := 0b111#3, taY0 := 0x7FC00000#32, dl := [(3, 0x3F800000#32)], wrIdx := 4#32 })
      (fun t => t.status = 0#3 && t.taY0 = 0#32 && t.dl = [] && t.wrIdx = 0#32 &&
        t.delayTarget = 0x41200000#32 && t.cfg.n = 20) = true := by decide +kernel

/-- 30_encoding.md R66 (95_test_vectors.md P5, line 3): the word is not a STEP. -/
theorem test_illegal_word :
    nextHolds (step (State.reset.withFetchWord 48 0x030000000001))
      (fun t => t = { State.reset with status := 0b010#3, rsp := some 0#32 }) = true := by
  decide +kernel

/-- 10_state.md R38: the block does nothing by itself. -/
theorem test_idle : nextHolds (step State.reset) (fun t => t = State.reset) = true := by decide +kernel

/-! ### Witnesses: a case that meets the hypotheses of each statement -/

theorem witness_DecodeEncodeRoundTrip : WellFormed (.wr 0xFF#8 0xFFFFFFFF#32) = true := by decide

theorem witness_EncodeDecodeRoundTrip : decode 0x01FFFFFFFFFF#48 = .ok (.wr 0xFF#8 0xFFFFFFFF#32) := by
  decide

/-- An illegal word of each kind of 30_encoding.md R66 presented to a legal block. -/
theorem witness_IllegalWords :
    State.reset.cfg.legal = true ∧
      ({ State.reset with port := [.command 0x070000000000#48, .reset] } : State).port =
        .command 0x070000000000#48 :: [.reset] ∧
      decode 0x070000000000#48 = .error .undefinedOpcode ∧
      decode 0x06FF00000000#48 = .error .operandNotZero ∧
      decode 0x020000000001#48 = .error .readDataNotZero := by decide

theorem witness_StepRunsDecodedCommand :
    (placed 15#32 0x40000000#32).cfg.legal = true ∧ decode 0x050000000000#48 = .ok .tick ∧
      ({ State.reset with port := [.command 0x050000000000#48] } : State).port =
        .command 0x050000000000#48 :: [] := by decide

theorem witness_IdleAndReset :
    State.reset.cfg.legal = true ∧ State.reset.port = [] ∧
      ({ State.reset with port := [.reset, .reset] } : State).port = .reset :: [.reset] := by decide

/-- Configurations just inside and just outside 00_scope.md R6, and a WR_IDX at N. -/
theorem witness_ModelStops :
    step { placed 16#32 0x41000000#32 with port := [.command 0x030000000000#48] } =
        .fault (.noSuchDelayWord 16#32) ∧
      step { State.reset with cfg := { Config.default with n := 7 } } = .refused .configOutOfRange ∧
    ({ Config.default with n := 7 } : Config).legal = false ∧
      ({ Config.default with n := 8 } : Config).legal = true ∧
      ({ Config.default with n := 16777216 } : Config).legal = true ∧
      ({ Config.default with n := 16777217 } : Config).legal = false ∧
      ({ Config.default with kSlewNum := 4096 } : Config).legal = false ∧
      ¬ (placed 16#32 0x41000000#32).wrIdx.toNat < (placed 16#32 0x41000000#32).cfg.n ∧
      exec .step (placed 16#32 0x41000000#32) = .fault (.noSuchDelayWord 16#32) := by
  refine ⟨rfl, rfl, by decide, by decide, by decide, by decide, by decide, by decide, rfl⟩

/-- Every kind of word before a legal block, at both ends of WR_IDX. -/
theorem witness_ResponseTable :
    State.reset.cfg.legal = true ∧ (placed 15#32 0x41000000#32).wrIdx.toNat < 16 ∧
      (placed 0#32 0x41000000#32).wrIdx.toNat < 16 ∧ State.reset.cfg.n = 16 ∧
      decode 0x000000000000#48 = .ok .nop ∧ decode 0x01FF00000001#48 = .ok (.wr 0xFF#8 1#32) ∧
      decode 0x060000000000#48 = .ok .init ∧ decode 0x020000000000#48 = .ok (.rd 0x00#8) ∧
      readRegister State.reset.toBlockState 0x1F#8 = some 0x46444901#32 ∧
      decode 0x020D00000000#48 = .ok (.rd 0x0D#8) ∧ decode 0x030000000000#48 = .ok .step ∧
      decode 0x050000000000#48 = .ok .tick ∧ decode 0x040000000000#48 = .ok .route ∧
      decode 0xFFFFFFFFFFFF#48 = .error .undefinedOpcode := by decide

theorem witness_ConfigurationKeptAndFlagsSticky :
    step State.reset = .next State.reset ∧
      exec (.rd 0x0D#8) State.reset =
        .next { State.reset with status := 0b100#3, rsp := some 0#32 } := ⟨rfl, rfl⟩

theorem witness_StatusSteersNothing :
    exec (.rd 0x11#8) State.reset = .next { State.reset with rsp := some 0#32 } := rfl

/-- Data below, above and inside each range, and on its ends, NaN among those below (47_host_access.md
R177). -/
theorem witness_WrLegalises :
    f32Le 0x40000000#32 0x7FC00000#32 = false ∧ f32Le 0x40000000#32 0x3FC00000#32 = false ∧
      f32Le 0x40000000#32 0x7F800000#32 = true ∧ f32Lt 0x41600000#32 0x7F800000#32 = true ∧
      InRange 0x40000000#32 0x41600000#32 0x40000000#32 ∧
      InRange 0x40000000#32 0x41600000#32 0x41600000#32 ∧
      InRange 0x00000000#32 0x3F99999A#32 0x80000000#32 ∧ f32Lit (16 - 2) 1 = 0x41600000#32 := by
  unfold InRange; decide +kernel

theorem witness_WrMode : (3#32 : Word) ≠ 0#32 ∧ (3#32 : Word) ≠ 1#32 ∧ (3#32 : Word) ≠ 2#32 := by decide

/-- The ends of each range of indices. -/
theorem witness_WrIgnored :
    ReadOnlyIndex 0x10#8 ∧ ReadOnlyIndex 0x17#8 ∧ ReadOnlyIndex 0x1F#8 ∧ UnmappedIndex 0x0D#8 ∧
      UnmappedIndex 0x0F#8 ∧ UnmappedIndex 0x18#8 ∧ UnmappedIndex 0x1E#8 ∧ UnmappedIndex 0x20#8 ∧
      UnmappedIndex 0xFF#8 := by
  unfold ReadOnlyIndex UnmappedIndex; decide

theorem witness_RdAnswersRegister :
    UnmappedIndex 0x0D#8 ∧ (routed .forward 0#32 0#32 0#32).mode = .forward ∧
      (routed .reverse 0#32 0#32 0#32).mode = .reverse ∧
      (routed .freeze 0#32 0#32 0#32).mode = .freeze := by
  unfold UnmappedIndex; decide

theorem witness_WrFrame : (0x00#8 : RegIdx) ≠ 0x03#8 ∧ (0x00#8 : RegIdx) ≠ 0x11#8 ∧
    ReadOnlyIndex 0x12#8 ∧ (0x12#8 : RegIdx) ≠ 0x11#8 := by
  unfold ReadOnlyIndex; decide

theorem witness_InitResets : beforeEcho.cfg.legal = true := by decide

theorem witness_ResetValues :
    Config.default.legal = true ∧ ({ Config.default with n := 8 } : Config).legal = true ∧
      ({ Config.default with n := 16777216, fsNum := 1, fsDen := 3 } : Config).legal = true := by decide

/-- In each mode a source and a gain that meet all three hypotheses. -/
def routeHypotheses (s : State) (src g : F32) : Prop :=
  (s.mode = .forward → src = s.yOut ∧ g = s.fbGain) ∧
    (s.mode = .reverse → src = s.revIn ∧ g = s.fbGain) ∧
    (s.mode = .freeze → src = s.yOut ∧ g = 0x3F59999A#32)

theorem witness_RouteByMode :
    routeHypotheses (routed .forward 0x3F000000#32 0x41100000#32 0x3F000000#32)
        0x3F000000#32 0x3F000000#32 ∧
      routeHypotheses (routed .reverse 0x3F000000#32 0x7F800000#32 0x00000000#32)
        0x7F800000#32 0x00000000#32 ∧
      routeHypotheses (routed .freeze 0x40000000#32 0x41100000#32 0x00000000#32)
        0x40000000#32 0x3F59999A#32 := by
  unfold routeHypotheses; decide

theorem witness_RouteBound :
    (routed .forward 0x40000000#32 0#32 0x3F99999A#32).mode ≠ .reverse ∧
      Within 0x40000000#32 0x40000000#32 ∧ Within 0x40000000#32 0xC0000000#32 ∧
      InRange 0x00000000#32 0x3F99999A#32 0x3F99999A#32 ∧
      InRange 0x00000000#32 0x3F99999A#32 0x80000000#32 := by
  unfold Within InRange; decide +kernel

/-- A memory that is not empty, at both ends of WR_IDX, in Freeze and out of it. -/
theorem witness_StepWritesAndFrame :
    State.reset.cfg.legal = true ∧ ({ beforeEcho with wrIdx := 15#32 } : State).wrIdx.toNat < 16 ∧
      beforeEcho.cfg.n = 16 ∧ Memory.wf 0x00000000#32 16 beforeEcho.dl = true ∧
      (beforeEcho.mode = .freeze → (0x00000000#32 : F32) = 0x00000000#32) ∧
      (beforeEcho.mode ≠ .freeze → (0x00000000#32 : F32) = beforeEcho.xIn) ∧
      Memory.wf (0x00000000#32 : F32) 16 [] = true ∧
      (routed .freeze 0#32 0#32 0#32).wrIdx.toNat < 16 ∧
      (routed .freeze 0#32 0#32 0#32).mode = .freeze := by decide

theorem witness_StepPipeline :
    beforeEcho.wrIdx.toNat < beforeEcho.cfg.n ∧
      (placed 15#32 0x41600000#32).wrIdx.toNat < (placed 15#32 0x41600000#32).cfg.n ∧
      (beforeEcho.mode = .freeze → (0x00000000#32 : F32) = 0x00000000#32) ∧
      (beforeEcho.mode ≠ .freeze → (0x00000000#32 : F32) = beforeEcho.xIn) ∧
      (routed .freeze 0#32 0#32 0#32).wrIdx.toNat < 16 ∧
      (routed .freeze 0#32 0#32 0#32).mode = .freeze := by decide

theorem witness_TickIsStepThenRoute : beforeEcho.wrIdx.toNat < beforeEcho.cfg.n := by decide

theorem witness_StepIgnoresUnreadRegisters :
    (routed .freeze 0#32 0#32 0#32).mode = .freeze ∧
      (routed .freeze 0#32 0#32 0#32).wrIdx.toNat < (routed .freeze 0#32 0#32 0#32).cfg.n := by decide

theorem witness_OnlyStepTouchesSignalState :
    Instr.nop ≠ .step ∧ Instr.nop ≠ .tick ∧ Instr.nop ≠ .init ∧
      exec .nop beforeEcho = .next { beforeEcho with rsp := some 0#32 } := by
  refine ⟨by decide, by decide, by decide, rfl⟩

/-- A placed state is legal when its index and its delay are. -/
theorem placed_legal {w : Word} {d : F32} (hw : w.toNat < 16)
    (hd : InRange (dLo builtNum) (dHi builtNum Config.default) d) : LegalState (placed w d) where
  config := (by decide : State.reset.cfg.legal = true)
  rate := (by decide +kernel : f32Finite (sampleRate builtNum State.reset.cfg) = true)
  block :=
    { wrIdx := hw
      curDelay := hd
      delayTarget := hd
      toneHz := (by unfold InRange; decide +kernel :
        InRange (zero builtNum) (hzMax builtNum State.reset.cfg) State.reset.toneHz)
      fbGain := (by unfold InRange; decide +kernel :
        InRange (zero builtNum) (fbMax builtNum) State.reset.fbGain)
      flutDepth := (by unfold InRange; decide +kernel :
        InRange (zero builtNum) (flutMax builtNum) State.reset.flutDepth)
      memory := rfl }

/-- Legal states at both ends of the write index and of the delay (41_delay_line.md R104). -/
theorem witness_LegalState :
    LegalState (placed 0#32 0x40000000#32) ∧ LegalState (placed 15#32 0x41600000#32) ∧
      LegalState (placed 7#32 0x41000000#32) :=
  ⟨placed_legal (by decide) (by unfold InRange; decide +kernel),
   placed_legal (by decide) (by unfold InRange; decide +kernel),
   placed_legal (by decide) (by unfold InRange; decide +kernel)⟩

theorem witness_DelayWindowShifts :
    LegalState (placed 15#32 0x41600000#32) ∧ (1 : Nat) ≤ 1 ∧ (1 : Nat) < 16 ∧ (15 : Nat) < 16 :=
  ⟨witness_LegalState.2.1, by decide⟩

theorem witness_ReadGeometry :
    LegalState (placed 0#32 0x40000000#32) ∧ LegalState (placed 15#32 0x41600000#32) :=
  ⟨witness_LegalState.1, witness_LegalState.2.1⟩

theorem witness_SilenceIsFixed :
    LegalState (placed 15#32 0x41600000#32) ∧
      f32Le 0x3F800000#32 (f32Lit 48000 1) = true ∧ Silent (placed 15#32 0x41600000#32).toBlockState :=
  ⟨witness_LegalState.2.1, by decide +kernel,
    { xIn := rfl, fb := rfl, flutDepth := rfl, curDelay := rfl, yOut := rfl, taY0 := rfl, tbY0 := rfl,
      dcX1 := rfl, dcY1 := rfl, delay := fun _ => rfl }⟩

/-- A signalling and a quiet NaN, in each of the four memories, at the last index. -/
theorem witness_NaNPersists :
    (placed 15#32 0x41000000#32).wrIdx.toNat < (placed 15#32 0x41000000#32).cfg.n ∧
      f32IsNaN ({ State.reset with taY0 := 0x7F800001#32 } : State).taY0 = true ∧
      f32IsNaN ({ State.reset with tbY0 := 0xFFC00000#32 } : State).tbY0 = true ∧
      f32IsNaN ({ State.reset with dcX1 := 0x7FFFFFFF#32 } : State).dcX1 = true ∧
      f32IsNaN ({ State.reset with dcY1 := 0x7FC00000#32 } : State).dcY1 = true ∧
      State.reset.mode ≠ .reverse := by decide

theorem witness_NonfiniteInput :
    State.reset.cfg.legal = true ∧ State.reset.wrIdx.toNat < State.reset.cfg.n ∧
      Memory.wf 0x00000000#32 State.reset.cfg.n State.reset.dl = true ∧ State.reset.mode ≠ .freeze ∧
      f32Finite State.reset.fb = true ∧ f32IsNaN 0x7F800001#32 = true := by decide

theorem witness_OutputBounded :
    beforeEcho.cfg.legal = true ∧ beforeEcho.wrIdx.toNat < beforeEcho.cfg.n ∧
      Memory.wf 0x00000000#32 beforeEcho.cfg.n beforeEcho.dl = true := by decide

theorem witness_SaturatorProperties :
    f32IsNaN 0x7F800000#32 = false ∧ f32IsNaN 0x403FFFFF#32 = false ∧ f32IsNaN 0xFFC00000#32 = true := by
  decide

theorem witness_LimiterProperties :
    Within 0x3F800000#32 0x3F800000#32 ∧ Within 0x3F800000#32 0x80000000#32 ∧
      f32IsNaN 0xFF800000#32 = false ∧ f32Le 0x3F800000#32 0x3F800001#32 = true ∧
      f32IsNaN 0x7FC00000#32 = true := by
  unfold Within InRange; decide +kernel

theorem witness_SlewNeverOvershoots :
    Config.default.legal = true ∧
      InRange (dLo builtNum) (dHi builtNum Config.default) 0x40000000#32 ∧
      InRange (dLo builtNum) (dHi builtNum Config.default) 0x41600000#32 ∧
      f32Le 0x40000000#32 0x41600000#32 = true ∧ f32Lt 0x40000000#32 0x41600000#32 = true := by
  unfold InRange; decide +kernel

theorem witness_HermiteExactAndFinite :
    Within 0x3F800000#32 0x3F800000#32 ∧ Within 0x3F800000#32 0xBF800000#32 ∧
      (0xBF800000#32 : F32) ≠ 0x80000000#32 ∧ f32Le 0x00000000#32 0x3F7FFFFF#32 = true ∧
      f32Lt 0x3F7FFFFF#32 0x3F800000#32 = true := by
  unfold Within InRange; decide +kernel

theorem witness_FlutterBounded :
    Within 0x3F800000#32 0xBF800000#32 ∧ InRange 0x00000000#32 0x42700000#32 0x42700000#32 ∧
      InRange 0x00000000#32 0x42700000#32 0x80000000#32 := by
  unfold Within InRange; decide +kernel

theorem witness_NumberFormat :
    f32Exponent 0x00800000#32 = 1 ∧ f32Exponent 0x7F7FFFFF#32 = 254 ∧ f32Exponent 0x807FFFFF#32 = 0 := by
  decide

theorem witness_PrimitivesRoundOnce :
    f32Finite 0x7F7FFFFF#32 = true ∧ f32Finite 0x00000001#32 = true ∧ f32Value 0x00000001#32 ≠ 0 := by
  decide +kernel

/-- An operand of each class that 40_numerics.md R79 names. -/
theorem witness_SpecialOperands :
    f32IsNaN 0x7FC00000#32 = true ∧ f32IsInf 0x7F800000#32 = true ∧ f32IsInf 0xFF800000#32 = true ∧
      f32Sign 0xFF800000#32 ≠ f32Sign 0x7F800000#32 ∧ f32IsZero 0x80000000#32 = true ∧
      f32Finite 0x3F800000#32 = true ∧ f32IsZero 0x3F800000#32 = false ∧
      f32IsNaN 0x3F800000#32 = false := by decide

theorem witness_Comparisons :
    f32IsNaN 0x7FC00000#32 = true ∧ f32Finite 0x7F7FFFFF#32 = true ∧ f32Finite 0x80000000#32 = true := by
  decide

theorem witness_FloorAndFraction :
    (16777216 : Nat) ≤ 2 ^ 24 ∧ f32Finite 0x4B7FFFFF#32 = true ∧ f32Sign 0x4B7FFFFF#32 = false ∧
      f32Value 0x4B7FFFFF#32 < 2 ^ 24 := by decide +kernel

theorem witness_Frac24Exact : (16777215 : Nat) < 2 ^ 24 := by decide

/-- 1 - 2 and 2 / 1 are -1 and 2, and 2 / 2 is the pattern of 1: results of different primitives. -/
theorem witness_RoundingIsMonotone :
    (∃ r s, PrimitiveResult (-1) r ∧ PrimitiveResult 2 s ∧ ((-1 : ℚ) ≤ 2) ∧
      ∃ u, PrimitiveResult (-(-1)) u ∧ PrimitiveResult (f32Value 0x3F800000#32) u) ∧
      f32Finite 0x3F800000#32 = true := by
  have h1 : f32Value 0x3F800000#32 = 1 := by decide +kernel
  have h2 : f32Value 0x40000000#32 = 2 := by decide +kernel
  have a := PrimitiveResult.sub 0 0x3F800000#32 0x40000000#32 (by decide) (by decide)
  have b := PrimitiveResult.div 0 0x40000000#32 0x3F800000#32 (by decide) (by decide) (by rw [h1]; decide)
  have c := PrimitiveResult.div 0 0x40000000#32 0x40000000#32 (by decide) (by decide) (by rw [h2]; decide)
  rw [h1, h2, show (1 - 2 : ℚ) = -1 by norm_num] at a
  rw [h1, h2, show (2 / 1 : ℚ) = 2 by norm_num] at b
  rw [h2, show (2 / 2 : ℚ) = 1 by norm_num] at c
  exact ⟨⟨_, _, a, b, by norm_num, _, by rwa [neg_neg], by rwa [h1]⟩, by decide⟩

theorem witness_RealHermite : |(1 : ℚ)| ≤ 1 ∧ |(-1 : ℚ)| ≤ 1 ∧ (0 : ℚ) ≤ 1 / 2 ∧ (1 / 2 : ℚ) ≤ 1 := by
  decide +kernel

theorem witness_RealSaturatorAndLimiter :
    |(29 / 10 : ℚ)| < 3 ∧ (29 / 10 : ℚ) ≠ 0 ∧ (29 / 10 : ℚ) ≤ 3 ∧ |(1 : ℚ)| ≤ 1 ∧ (1 : ℚ) < 2 ∧
      (-2 : ℚ) < -1 := by decide +kernel

theorem witness_RealFilterBounds :
    (0 : ℚ) ≤ 3 / 4 ∧ (3 / 4 : ℚ) < 1 ∧ |(1 : ℚ)| ≤ 1 ∧
      |(realReset Config.default).dcX1| ≤ 1 ∧ |(realReset Config.default).dcY1| ≤ 400 * 1 := by
  decide +kernel

theorem witness_RealRegisterAccess :
    f32Finite 0x80000000#32 = true ∧ f32Finite 0x7F7FFFFF#32 = true ∧ f32Finite 0x7F800000#32 = false ∧
      (0x06#8 : RegIdx).toNat ≤ 6 ∧ Config.default.legal = true ∧ ReadOnlyIndex 0x10#8 ∧
      UnmappedIndex 0xFF#8 := by
  unfold ReadOnlyIndex UnmappedIndex; decide

theorem witness_RealSlewGeometric :
    (0 : ℚ) < 1 / 4096 ∧ (1 / 4096 : ℚ) < 1 ∧ (4 : ℚ) < 8 := by decide +kernel

theorem witness_ResetIsLegal :
    Config.default.legal = true ∧ f32Finite (f32Lit 48000 1) = true ∧
      f32Le 0x3F800000#32 (f32Lit 48000 1) = true ∧
      ({ Config.default with fsNum := 1, fsDen := 7 } : Config).legal = true ∧
      f32Finite (f32Lit 1 7) = true := by decide +kernel

/-- A legal state whose FB is a NaN, before the host presents a STEP. -/
theorem witness_LegalStateIsInvariant :
    ∃ s t : State, LegalState s ∧ s.fb = 0x7FC00000#32 ∧ step s = .next t := by
  refine ⟨{ placed 15#32 0x41600000#32 with
      fb := 0x7FC00000#32, port := [.command 0x000000000000#48] }, _, ?_, rfl, rfl⟩
  have h := witness_LegalState.2.1
  exact ⟨h.config, h.rate, ⟨h.block.wrIdx, h.block.curDelay, h.block.delayTarget, h.block.toneHz,
    h.block.fbGain, h.block.flutDepth, h.block.memory⟩⟩

theorem witness_LegalStateNeverStops : LegalState (placed 0#32 0x40000000#32) := witness_LegalState.1

/-- A placed state is within the contract, and so with operands at their largest finite values. -/
theorem witness_ContractIsInvariant :
    ContractState { placed 15#32 0x41600000#32 with xIn := 0x7F7FFFFF#32, revIn := 0x7E800000#32 } ∧
      (∀ i, OperandsFinite i
        { placed 15#32 0x41600000#32 with xIn := 0x7F7FFFFF#32, revIn := 0x7E800000#32 }) ∧
      RouteOperandsFinite { placed 15#32 0x41600000#32 with mode := .reverse, revIn := 0xFE800000#32 } := by
  have h := witness_LegalState.2.1
  have hz : Within 0x3F800000#32 0x00000000#32 := by unfold Within InRange; decide +kernel
  have hr : Within 0x7E800000#32 0x7E800000#32 := by unfold Within InRange; decide +kernel
  have hs : StepOperandsFinite
      { placed 15#32 0x41600000#32 with xIn := 0x7F7FFFFF#32, revIn := 0x7E800000#32 } := by
    unfold StepOperandsFinite; decide +kernel
  refine ⟨⟨⟨h.config, h.rate, ⟨h.block.wrIdx, h.block.curDelay, h.block.delayTarget, h.block.toneHz,
    h.block.fbGain, h.block.flutDepth, h.block.memory⟩⟩, by decide +kernel,
    ⟨fun _ => hz, ?_, ?_, ?_, ?_, ?_⟩⟩, ?_, fun _ => ?_⟩
  · unfold Within InRange; decide +kernel
  · unfold Within InRange; decide +kernel
  · unfold Within InRange; decide +kernel
  · unfold Within InRange; decide +kernel
  · unfold Within InRange; decide +kernel
  · intro i
    cases i <;> first | trivial | exact hs | exact fun _ => hr | exact ⟨hs, fun _ => hr⟩
  · unfold Within InRange; decide +kernel

end Sys2Proof.Tests
end

namespace Sys2Proof.Machine

/-! ### The derived constants of 00_scope.md R6 with the default parameters, as patterns

HZ_MAX and G_B are formed by primitives; their operands are finite, so no draw reaches them and each is one
value for every draw number. -/

@[simp] theorem sampleRate_default_f32 (k : Nat) : sampleRate (f32Num k) Config.default = 0x473B8000#32 := by
  change f32Lit 48000 1 = _; decide +kernel

@[simp] theorem kSlew_default_f32 (k : Nat) : kSlew (f32Num k) Config.default = 0x39800000#32 := by
  change f32Lit 1 4096 = _; decide +kernel

@[simp] theorem hzMax_default_f32 (k : Nat) : hzMax (f32Num k) Config.default = 0x46BA6000#32 := by
  rw [hzMax, fMax_f32, sampleRate_default_f32, f32Num_fmul, f32Mul_finite (by decide) (by decide)]
  decide +kernel

/-- HP_HZ / FS, the ratio from which `coef` forms G_B. -/
theorem f32Div_hpHz_default (k : Nat) : f32Div k 0x43130000#32 0x473B8000#32 = 0x3B48B439#32 := by
  rw [f32Div_finite (by decide) (by decide) (by decide)]
  decide +kernel

/-- The denominator of G_B: K159 + HP_HZ / FS. -/
theorem f32Add_k159_default (k : Nat) : f32Add k 0x3E22D0E5#32 0x3B48B439#32 = 0x3E25F3B6#32 := by
  rw [f32Add_finite (by decide) (by decide)]
  decide +kernel

@[simp] theorem gB_default_f32 (k : Nat) : gB (f32Num k) Config.default = 0x3C9ACDF2#32 := by
  simp only [gB, coef, hpHz_f32, sampleRate_default_f32, k159_f32, f32Num_fdiv, f32Num_fadd,
    f32Div_hpHz_default, f32Add_k159_default]
  rw [f32Div_finite (by decide) (by decide) (by decide)]
  decide +kernel

/-- Settles O51: each constant is its pattern, by the lemma of that constant. -/
theorem constantPatterns : Obligations.ConstantPatterns := fun k =>
  ⟨drive_f32 k, satEdge_f32 k, hpHz_f32 k, k159_f32 k, fMax_f32 k, dcR_f32 k, fbMax_f32 k,
    freezeCorr_f32 k, flutMax_f32 k, dLo_f32 k, sampleRate_default_f32 k, kSlew_default_f32 k,
    hzMax_default_f32 k, gB_default_f32 k⟩

/-! ### When a command stops

`exec_completes` and `exec_of_not_lt` are the two sides of one condition; `exec_cases` joins them. -/

theorem Config.legal_iff (c : Config) : c.legal = true ↔
    0 < c.fsNum ∧ 0 < c.fsDen ∧ 8 ≤ c.n ∧ c.n ≤ 2 ^ 24 ∧ 0 < c.kSlewNum ∧ c.kSlewNum < c.kSlewDen := by
  simp [Config.legal, and_assoc]

/-- A command that does not write DL, or whose WR_IDX names a word of it, completes. -/
theorem exec_completes {i : Instr} {s : State} (h : i = .step ∨ i = .tick → s.wrIdx.toNat < s.cfg.n) :
    ∃ t, exec i s = .next t := by
  cases i with
  | nop => exact ⟨_, rfl⟩
  | wr reg data =>
    simp only [exec, execWr]
    split <;> exact ⟨_, rfl⟩
  | rd reg =>
    simp only [exec, execRd]
    split <;> exact ⟨_, rfl⟩
  | step =>
    obtain ⟨t, _, ht⟩ := execStep_of_lt (h (.inl rfl))
    exact ⟨_, ht⟩
  | route => exact ⟨_, rfl⟩
  | tick =>
    obtain ⟨t, _, ht⟩ := execTick_of_lt (h (.inr rfl))
    exact ⟨_, ht⟩
  | init => exact ⟨_, rfl⟩

/-- STEP and TICK fault where WR_IDX names no word of DL (20_memory.md R40; log entry 8). -/
theorem exec_of_not_lt {i : Instr} {s : State} (hi : i = .step ∨ i = .tick)
    (hw : ¬ s.wrIdx.toNat < s.cfg.n) : exec i s = .fault (.noSuchDelayWord s.wrIdx) := by
  obtain rfl | rfl := hi
  · simp only [exec, execStep, stepState_of_not_lt hw, onNext_fault]
  · simp only [exec, execTick, stepState_of_not_lt hw, onNext_fault]

/-- Every outcome of a command: it completes, or it is a STEP or TICK that faults. -/
theorem exec_cases (i : Instr) (s : State) :
    (∃ t, exec i s = .next t) ∨
    ((i = .step ∨ i = .tick) ∧ ¬ s.wrIdx.toNat < s.cfg.n ∧
      exec i s = .fault (.noSuchDelayWord s.wrIdx)) := by
  by_cases h : i = .step ∨ i = .tick → s.wrIdx.toNat < s.cfg.n
  · exact .inl (exec_completes h)
  · obtain ⟨hi, hw⟩ := Classical.not_imp.mp h
    exact .inr ⟨hi, hw, exec_of_not_lt hi hw⟩

theorem exec_ne_refused (i : Instr) (s : State) (r : Refusal) : exec i s ≠ .refused r := by
  intro h
  obtain ⟨t, he⟩ | ⟨_, _, he⟩ := exec_cases i s
  · cases he.symm.trans h
  · cases he.symm.trans h

theorem exec_eq_fault_iff (i : Instr) (s : State) (r : Fault) : exec i s = .fault r ↔
    (i = .step ∨ i = .tick) ∧ ¬ s.wrIdx.toNat < s.cfg.n ∧ r = .noSuchDelayWord s.wrIdx := by
  constructor
  · intro h
    obtain ⟨t, he⟩ | ⟨hi, hw, he⟩ := exec_cases i s
    · cases he.symm.trans h
    · exact ⟨hi, hw, (Host.Outcome.fault.inj (he.symm.trans h)).symm⟩
  · rintro ⟨hi, hw, rfl⟩
    exact exec_of_not_lt hi hw

/-! ### What a step runs, and when it stops -/

/-- A step of a legally configured block whose oldest event is a legal word runs that command. -/
theorem step_of_command {s : State} {c : CmdWord} {rest : List PortEvent} {i : Instr}
    (hc : s.cfg.legal = true) (hp : s.port = .command c :: rest) (hd : decode c = .ok i) :
    step s = exec i (s.withPort rest) := by
  simp only [step, hc, if_true, runPort, hp, runEvent, runCommand, hd]

/-- What a step is, whatever its outcome: refused for the configuration, the command of the oldest event,
or, idle, at `rst` and for an illegal word, complete. -/
theorem step_cases (s : State) :
    (s.cfg.legal = false ∧ step s = .refused .configOutOfRange) ∨
    (s.cfg.legal = true ∧ ∃ c rest i, s.port = .command c :: rest ∧ decode c = .ok i ∧
      step s = exec i (s.withPort rest)) ∨
    (s.cfg.legal = true ∧ ∃ t, step s = .next t) := by
  cases hc : s.cfg.legal with
  | false => exact .inl ⟨rfl, by simp [step, hc]⟩
  | true =>
    refine .inr ?_
    have hs : step s = runPort s := if_pos hc
    match hp : s.port with
    | [] => exact .inr ⟨rfl, s.silent, by rw [hs, runPort, hp]⟩
    | .reset :: rest => exact .inr ⟨rfl, (s.withPort rest).afterReset, by rw [hs, runPort, hp]; rfl⟩
    | .command c :: rest =>
      cases hd : decode c with
      | ok i => exact .inl ⟨rfl, c, rest, i, rfl, hd, step_of_command hc hp hd⟩
      | error why =>
        exact .inr ⟨rfl, takeIllegalWord (s.withPort rest), by
          simp only [hs, runPort, hp, runEvent, runCommand, hd]⟩

theorem step_eq_refused_iff (s : State) (r : Refusal) :
    step s = .refused r ↔ s.cfg.legal = false ∧ r = .configOutOfRange := by
  constructor
  · intro h
    obtain ⟨hc, hs⟩ | ⟨_, c, rest, i, _, _, hs⟩ | ⟨_, t, hs⟩ := step_cases s
    · exact ⟨hc, (Host.Outcome.refused.inj (hs.symm.trans h)).symm⟩
    · exact absurd (hs.symm.trans h) (exec_ne_refused i _ r)
    · cases hs.symm.trans h
  · rintro ⟨hc, rfl⟩
    simp [step, hc]

/-- A step faults exactly when the command it runs does. -/
theorem step_eq_fault_iff_exec (s : State) (r : Fault) : step s = .fault r ↔
    s.cfg.legal = true ∧ ∃ c rest i, s.port = .command c :: rest ∧ decode c = .ok i ∧
      exec i (s.withPort rest) = .fault r := by
  constructor
  · intro h
    obtain ⟨_, hs⟩ | ⟨hc, c, rest, i, hp, hd, hs⟩ | ⟨_, t, hs⟩ := step_cases s
    · cases hs.symm.trans h
    · exact ⟨hc, c, rest, i, hp, hd, hs.symm.trans h⟩
    · cases hs.symm.trans h
  · rintro ⟨hc, c, rest, i, hp, hd, he⟩
    exact (step_of_command hc hp hd).trans he

/-- The command's condition carried to the step: taking the event from the port changes neither WR_IDX nor
the parameters. -/
theorem step_eq_fault_iff (s : State) (r : Fault) : step s = .fault r ↔
    s.cfg.legal = true ∧ (∃ c rest, s.port = .command c :: rest ∧
      (decode c = .ok .step ∨ decode c = .ok .tick)) ∧
    ¬ s.wrIdx.toNat < s.cfg.n ∧ r = .noSuchDelayWord s.wrIdx := by
  simp only [step_eq_fault_iff_exec, exec_eq_fault_iff, State.withPort_toBlockState, State.withPort_cfg]
  constructor
  · rintro ⟨hc, c, rest, i, hp, hd, hi, hw⟩
    obtain rfl | rfl := hi
    · exact ⟨hc, ⟨c, rest, hp, .inl hd⟩, hw⟩
    · exact ⟨hc, ⟨c, rest, hp, .inr hd⟩, hw⟩
  · rintro ⟨hc, ⟨c, rest, hp, hd | hd⟩, hw⟩
    · exact ⟨hc, c, rest, .step, hp, hd, .inl rfl, hw⟩
    · exact ⟨hc, c, rest, .tick, hp, hd, .inr rfl, hw⟩

/-- Settles O8: refusals by the configuration alone, faults by the WR_IDX of a STEP or TICK alone. -/
theorem modelStops : Obligations.ModelStops := by
  refine ⟨fun s => ?_, fun s r h => ((step_eq_refused_iff s r).mp h).2, exec_ne_refused,
    exec_eq_fault_iff, step_eq_fault_iff⟩
  rw [← Config.legal_iff, Bool.not_eq_true]
  constructor
  · rintro ⟨r, h⟩
    exact ((step_eq_refused_iff s r).mp h).1
  · intro hc
    exact ⟨.configOutOfRange, (step_eq_refused_iff s _).mpr ⟨hc, rfl⟩⟩

end Sys2Proof.Machine

namespace Sys2Proof.Machine

/-! ### The signed value of a pattern, in units of 2^-149

`f32Units` orders the patterns that are not a NaN, and a pattern is finite exactly when its units lie below
those of the infinity. The order, the classes and the rounding of a primitive's result are thus facts about
whole numbers. -/

theorem f32Units_pack (n : Bool) {low : Nat} (h : low < 2147483648) :
    f32Units (f32Pack n low) = if n then -(lowUnits low : Int) else (lowUnits low : Int) := by
  simp only [f32Units, f32Sign_pack n h, f32Magnitude_pack n h]

theorem f32Finite_iff_low (a : F32) : f32Finite a = true ↔ a.toNat % 2147483648 < 0x7F800000 :=
  decide_eq_true_iff.trans (by unfold f32Exponent; omega)

theorem f32IsNaN_eq_false_iff_low (a : F32) :
    f32IsNaN a = false ↔ a.toNat % 2147483648 ≤ 0x7F800000 := by
  rw [f32IsNaN, Bool.and_eq_false_iff, decide_eq_false_iff_not, decide_eq_false_iff_not, f32Exponent,
    f32Fraction]
  omega

theorem natAbs_f32Units (a : F32) : (f32Units a).natAbs = f32Magnitude a := by
  unfold f32Units
  split <;> simp

/-- A pattern is finite when its magnitude is below the infinity's. -/
theorem f32Finite_iff_magnitude (a : F32) :
    f32Finite a = true ↔ f32Magnitude a < lowUnits 0x7F800000 := by
  rw [f32Finite_iff_low, f32Magnitude_eq, lowUnits_strictMono.lt_iff_lt]

theorem f32Finite_of_natAbs_le {a b : F32} (h : (f32Units a).natAbs ≤ (f32Units b).natAbs)
    (hb : f32Finite b = true) : f32Finite a = true := by
  rw [natAbs_f32Units, natAbs_f32Units] at h
  exact (f32Finite_iff_magnitude a).mpr (h.trans_lt ((f32Finite_iff_magnitude b).mp hb))

theorem f32Le_iff (a b : F32) : f32Le a b = true ↔
    f32IsNaN a = false ∧ f32IsNaN b = false ∧ f32Units a ≤ f32Units b := by
  simp [f32Le, f32Ordered, and_assoc]

theorem f32Lt_iff (a b : F32) : f32Lt a b = true ↔
    f32IsNaN a = false ∧ f32IsNaN b = false ∧ f32Units a < f32Units b := by
  simp [f32Lt, f32Ordered, and_assoc]

theorem f32Le_refl {a : F32} (h : f32IsNaN a = false) : f32Le a a = true :=
  (f32Le_iff a a).mpr ⟨h, h, le_refl _⟩

/-- Between bounds that are finite there are only finite values. -/
theorem InRange.finite {lo hi v : F32} (h : InRange lo hi v) (hlo : f32Finite lo = true)
    (hhi : f32Finite hi = true) : f32Finite v = true := by
  obtain ⟨_, _, h1⟩ := (f32Le_iff _ _).mp h.1
  obtain ⟨_, _, h2⟩ := (f32Le_iff _ _).mp h.2
  rcases le_total 0 (f32Units v) with h0 | h0
  · exact f32Finite_of_natAbs_le (by omega) hhi
  · exact f32Finite_of_natAbs_le (by omega) hlo

theorem f32Le_of_not_lt {a b : F32} (ha : f32IsNaN a = false) (hb : f32IsNaN b = false)
    (h : ¬ f32Lt b a = true) : f32Le a b = true :=
  (f32Le_iff a b).mpr ⟨ha, hb, not_lt.mp fun hc => h ((f32Lt_iff b a).mpr ⟨hb, ha, hc⟩)⟩

/-- The guard against an upper bound, as `clampN` and `dl_slew` write it. -/
theorem inRange_upperGuard {lo hi v : F32} (h : f32Le lo hi = true) (hv : f32Le lo v = true) :
    InRange lo hi (if f32Lt hi v then hi else v) := by
  obtain ⟨_, hhi, _⟩ := (f32Le_iff lo hi).mp h
  obtain ⟨_, hvn, _⟩ := (f32Le_iff lo v).mp hv
  by_cases hlt : f32Lt hi v = true
  · rw [if_pos hlt]
    exact ⟨h, f32Le_refl hhi⟩
  · rw [if_neg hlt]
    exact ⟨hv, f32Le_of_not_lt hvn hhi hlt⟩

/-- The guard against a lower bound, as `dl_slew` writes it. -/
theorem inRange_lowerGuard {lo hi v : F32} (h : f32Le lo hi = true) (hv : f32Le v hi = true) :
    InRange lo hi (if f32Lt v lo then lo else v) := by
  obtain ⟨hlo, _, _⟩ := (f32Le_iff lo hi).mp h
  obtain ⟨hvn, _, _⟩ := (f32Le_iff v hi).mp hv
  by_cases hlt : f32Lt v lo = true
  · rw [if_pos hlt]
    exact ⟨f32Le_refl hlo, h⟩
  · rw [if_neg hlt]
    exact ⟨f32Le_of_not_lt hlo hvn hlt, hv⟩

theorem clampN_of_le {k : Nat} {v lo hi : F32} (h : f32Le lo v = true) :
    clampN (f32Num k) v lo hi = if f32Lt hi v then hi else v := by
  have hv : ¬ (!f32Le lo v) = true := by simp [h]
  exact if_neg hv

theorem clampN_of_not_le {k : Nat} {v lo hi : F32} (h : f32Le lo v = false) :
    clampN (f32Num k) v lo hi = lo := by
  have hv : (!f32Le lo v) = true := by simp [h]
  exact if_pos hv

/-- What `clampN` answers lies between its bounds, whatever is clamped, a NaN included (00_scope.md R8). -/
theorem clampN_inRange (k : Nat) (v : F32) {lo hi : F32} (h : f32Le lo hi = true) :
    InRange lo hi (clampN (f32Num k) v lo hi) := by
  cases hv : f32Le lo v with
  | true =>
    rw [clampN_of_le hv]
    exact inRange_upperGuard h hv
  | false =>
    obtain ⟨hlo, _, _⟩ := (f32Le_iff lo hi).mp h
    rw [clampN_of_not_le hv]
    exact ⟨f32Le_refl hlo, h⟩

/-! ### Rounding of a signed quotient -/

/-- The units of the binary32 nearest to `s / d` units: `roundUnits` with a sign. -/
def roundSigned (s : Int) (d : Nat) : Int :=
  if s < 0 then -(lowUnits (roundUnits s.natAbs d) : Int) else (lowUnits (roundUnits s.natAbs d) : Int)

theorem roundUnits_lt (p d : Nat) : roundUnits p d < 2147483648 :=
  (roundUnits_le p d).trans_lt (by decide)

theorem f32Units_pack_roundUnits (s : Int) (d : Nat) :
    f32Units (f32Pack (s < 0) (roundUnits s.natAbs d)) = roundSigned s d := by
  simp [f32Units_pack _ (roundUnits_lt _ _), roundSigned]

/-- A rounded pattern is a number or an infinity. -/
theorem f32IsNaN_pack_roundUnits (n : Bool) (p d : Nat) : f32IsNaN (f32Pack n (roundUnits p d)) = false := by
  have h := roundUnits_le p d
  rw [f32IsNaN_eq_false_iff_low, f32Pack_toNat n (roundUnits_lt p d)]
  cases n <;> simp <;> omega

theorem roundUnits_zero {d : Nat} (hd : 0 < d) : roundUnits 0 d = 0 := by
  simpa [lowUnits] using roundUnits_exact (low := 0) hd (by decide)

theorem roundSigned_zero {d : Nat} (hd : 0 < d) : roundSigned 0 d = 0 := by
  simp [roundSigned, roundUnits_zero hd, lowUnits]

theorem roundSigned_mono {s s' : Int} {d d' : Nat} (hd : 0 < d) (hd' : 0 < d') (h : s * d' ≤ s' * d) :
    roundSigned s d ≤ roundSigned s' d' := by
  have hdi : (0 : Int) < d := by exact_mod_cast hd
  have hdi' : (0 : Int) < d' := by exact_mod_cast hd'
  unfold roundSigned
  split
  next hs =>
    split
    next hs' =>
      have hm : roundUnits s'.natAbs d' ≤ roundUnits s.natAbs d := by
        refine roundUnits_mono hd' hd ?_
        zify
        rw [abs_of_neg hs, abs_of_neg hs']
        linarith
      have := lowUnits_strictMono.monotone hm
      omega
    next => omega
  next hs =>
    have hs' : ¬ s' < 0 := fun hc => by nlinarith
    rw [if_neg hs']
    have hm : roundUnits s.natAbs d ≤ roundUnits s'.natAbs d' := by
      refine roundUnits_mono hd hd' ?_
      zify
      rw [abs_of_nonneg (not_lt.mp hs), abs_of_nonneg (not_lt.mp hs')]
      exact h
    exact_mod_cast lowUnits_strictMono.monotone hm

/-- What a finite pattern denotes is not changed by rounding. -/
theorem roundSigned_f32Units {c : F32} (hc : f32Finite c = true) {d : Nat} (hd : 0 < d) :
    roundSigned (f32Units c * d) d = f32Units c := by
  have hdi : (0 : Int) < d := by exact_mod_cast hd
  have hlow := (f32Finite_iff_low c).mp hc
  have habs : (f32Units c * d).natAbs = lowUnits (c.toNat % 2147483648) * d := by
    rw [Int.natAbs_mul, natAbs_f32Units, f32Magnitude_eq, Int.natAbs_natCast]
  have hneg : f32Units c * d < 0 ↔ f32Units c < 0 := by
    constructor <;> intro h <;> nlinarith
  rw [roundSigned, habs, roundUnits_exact hd hlow, ← f32Magnitude_eq, ← natAbs_f32Units]
  split <;> omega

/-- Rounding does not cross a finite value from above. -/
theorem f32Units_le_roundSigned {c : F32} (hc : f32Finite c = true) {s : Int} {d : Nat} (hd : 0 < d)
    (h : f32Units c * d ≤ s) : f32Units c ≤ roundSigned s d := by
  rw [← roundSigned_f32Units hc hd]
  exact roundSigned_mono hd hd (mul_le_mul_of_nonneg_right h (Int.natCast_nonneg d))

/-- Rounding does not cross a finite value from below. -/
theorem roundSigned_le_f32Units {c : F32} (hc : f32Finite c = true) {s : Int} {d : Nat} (hd : 0 < d)
    (h : s ≤ f32Units c * d) : roundSigned s d ≤ f32Units c := by
  rw [← roundSigned_f32Units hc hd]
  exact roundSigned_mono hd hd (mul_le_mul_of_nonneg_right h (Int.natCast_nonneg d))

theorem roundSigned_nonneg {s : Int} {d : Nat} (hd : 0 < d) (h : 0 ≤ s) : 0 ≤ roundSigned s d := by
  rw [← roundSigned_zero hd]
  exact roundSigned_mono hd hd (by rw [zero_mul]; positivity)

theorem roundSigned_nonpos {s : Int} {d : Nat} (hd : 0 < d) (h : s ≤ 0) : roundSigned s d ≤ 0 := by
  rw [← roundSigned_zero hd]
  exact roundSigned_mono hd hd (by rw [zero_mul]; exact mul_nonpos_of_nonpos_of_nonneg h (Int.natCast_nonneg d))

theorem f32AddFinite_eq (a b : F32) (h : f32Units a + f32Units b ≠ 0) :
    f32AddFinite a b =
      f32Pack (f32Units a + f32Units b < 0) (roundUnits (f32Units a + f32Units b).natAbs 1) := by
  simp only [f32AddFinite, h, if_false]

theorem f32Units_addFinite (a b : F32) :
    f32Units (f32AddFinite a b) = roundSigned (f32Units a + f32Units b) 1 := by
  by_cases h : f32Units a + f32Units b = 0
  · simp only [f32AddFinite, h, if_true, f32Units_pack _ (show 0 < 2147483648 by decide),
      roundSigned_zero Nat.one_pos]
    split <;> simp [lowUnits]
  · rw [f32AddFinite_eq a b h, f32Units_pack_roundUnits]

theorem f32IsNaN_addFinite (a b : F32) : f32IsNaN (f32AddFinite a b) = false := by
  by_cases h : f32Units a + f32Units b = 0
  · simp only [f32AddFinite, h, if_true]
    cases f32Sign a && f32Sign b <;> decide
  · rw [f32AddFinite_eq a b h]
    exact f32IsNaN_pack_roundUnits _ _ _

theorem roundSigned_natCast (p d : Nat) : roundSigned p d = lowUnits (roundUnits p d) := by
  simp [roundSigned]

theorem roundSigned_neg (s : Int) {d : Nat} (hd : 0 < d) : roundSigned (-s) d = -roundSigned s d := by
  rcases lt_trichotomy s 0 with h | h | h
  · simp [roundSigned, h, h.le]
  · simp [h, roundSigned_zero hd]
  · simp [roundSigned, h, h.le]

/-- A product of finite operands, as units: the exact product rounded once (40_numerics.md R78). -/
theorem f32Units_mul {k : Nat} {a b : F32} (ha : f32Finite a = true) (hb : f32Finite b = true) :
    f32Units (f32Mul k a b) = roundSigned (f32Units a * f32Units b) (2 ^ 149) := by
  have hr := roundSigned_natCast (f32Magnitude a * f32Magnitude b) (2 ^ 149)
  have hn := roundSigned_neg ((f32Magnitude a * f32Magnitude b : Nat) : Int) (Nat.two_pow_pos 149)
  rw [f32Mul_finite ha hb, f32Units_pack _ (roundUnits_lt _ _), ← hr]
  push_cast at hn ⊢
  cases hsa : f32Sign a <;> cases hsb : f32Sign b <;> simp [f32Units, hsa, hsb, hn]

theorem f32IsNaN_mul {k : Nat} {a b : F32} (ha : f32Finite a = true) (hb : f32Finite b = true) :
    f32IsNaN (f32Mul k a b) = false := by
  rw [f32Mul_finite ha hb]
  exact f32IsNaN_pack_roundUnits _ _ _

/-- A factor between 0 and 1 does not move a value away from zero, nor across it. -/
theorem f32Units_mul_of_le_one {k : Nat} {a b : F32} (ha : f32Finite a = true) (hb : f32Finite b = true)
    (h0 : 0 ≤ f32Units a) (h1 : f32Units a ≤ 2 ^ 149) :
    (0 ≤ f32Units b → 0 ≤ f32Units (f32Mul k a b) ∧ f32Units (f32Mul k a b) ≤ f32Units b) ∧
    (f32Units b ≤ 0 → f32Units b ≤ f32Units (f32Mul k a b) ∧ f32Units (f32Mul k a b) ≤ 0) := by
  have hd : 0 < 2 ^ 149 := Nat.two_pow_pos 149
  rw [f32Units_mul ha hb]
  constructor <;> intro h
  · refine ⟨roundSigned_nonneg hd (mul_nonneg h0 h), roundSigned_le_f32Units hb hd ?_⟩
    push_cast
    rw [mul_comm]
    exact mul_le_mul_of_nonneg_left h1 h
  · refine ⟨f32Units_le_roundSigned hb hd ?_, roundSigned_nonpos hd (mul_nonpos_of_nonneg_of_nonpos h0 h)⟩
    push_cast
    rw [mul_comm (f32Units a)]
    exact mul_le_mul_of_nonpos_left h1 h

theorem f32Finite_mul_of_le_one {k : Nat} {a b : F32} (ha : f32Finite a = true) (hb : f32Finite b = true)
    (h0 : 0 ≤ f32Units a) (h1 : f32Units a ≤ 2 ^ 149) : f32Finite (f32Mul k a b) = true := by
  obtain ⟨hpos, hneg⟩ := f32Units_mul_of_le_one (k := k) ha hb h0 h1
  refine f32Finite_of_natAbs_le ?_ hb
  rcases le_total 0 (f32Units b) with h | h
  · have := hpos h
    omega
  · have := hneg h
    omega

/-! ### The slew -/

/-- The gap of two non-negative delays: a finite value between the target and the negated present one. -/
theorem f32Units_gap {k : Nat} {cur tgt : F32} (hc : f32Finite cur = true) (ht : f32Finite tgt = true)
    (hc0 : 0 ≤ f32Units cur) (ht0 : 0 ≤ f32Units tgt) :
    f32Finite (f32Sub k tgt cur) = true ∧
    f32Units (f32Sub k tgt cur) = roundSigned (f32Units tgt - f32Units cur) 1 := by
  have he : f32Units (f32Sub k tgt cur) = roundSigned (f32Units tgt - f32Units cur) 1 := by
    rw [f32Sub_finite ht hc, f32Units_addFinite, f32Units_neg, sub_eq_add_neg]
  have hup : f32Units (f32Sub k tgt cur) ≤ f32Units tgt := by
    rw [he]
    exact roundSigned_le_f32Units ht Nat.one_pos (by omega)
  have hdown : f32Units (f32Neg cur) ≤ f32Units (f32Sub k tgt cur) := by
    rw [he]
    exact f32Units_le_roundSigned (by simpa using hc) Nat.one_pos (by rw [f32Units_neg]; omega)
  rw [f32Units_neg] at hdown
  refine ⟨?_, he⟩
  rcases le_total 0 (f32Units (f32Sub k tgt cur)) with h | h
  · exact f32Finite_of_natAbs_le (by omega) ht
  · exact f32Finite_of_natAbs_le (by omega) hc

/-- The delay a slew step aims at before its guard acts: `cur + K * (tgt - cur)` (41_delay_line.md R103). -/
def unguardedSlew (k : Nat) (ks cur tgt : F32) : F32 :=
  f32Add k cur (f32Mul k ks (f32Sub k tgt cur))

theorem slew_of_le {k : Nat} {ks cur tgt : F32} (h : f32Le cur tgt = true) :
    slew (f32Num k) ks cur tgt =
      if f32Lt tgt (unguardedSlew k ks cur tgt) then tgt else unguardedSlew k ks cur tgt :=
  if_pos h

theorem slew_of_not_le {k : Nat} {ks cur tgt : F32} (h : ¬ f32Le cur tgt = true) :
    slew (f32Num k) ks cur tgt =
      if f32Lt (unguardedSlew k ks cur tgt) tgt then tgt else unguardedSlew k ks cur tgt :=
  if_neg h

/-- A slew step ends between the present delay and the target (41_delay_line.md R103): the guard keeps it
from passing the target, and rounding cannot carry it to the far side of the present delay. -/
theorem slew_between (k : Nat) {ks cur tgt : F32} (hk : f32Finite ks = true) (hk0 : 0 ≤ f32Units ks)
    (hk1 : f32Units ks ≤ 2 ^ 149) (hc : f32Finite cur = true) (ht : f32Finite tgt = true)
    (hc0 : 0 ≤ f32Units cur) (ht0 : 0 ≤ f32Units tgt) :
    InRange cur tgt (slew (f32Num k) ks cur tgt) ∨ InRange tgt cur (slew (f32Num k) ks cur tgt) := by
  have hcn := f32IsNaN_of_finite hc
  have htn := f32IsNaN_of_finite ht
  obtain ⟨hd, hdu⟩ := f32Units_gap (k := k) hc ht hc0 ht0
  obtain ⟨hpos, hneg⟩ := f32Units_mul_of_le_one (k := k) hk hd hk0 hk1
  have hp := f32Finite_mul_of_le_one (k := k) hk hd hk0 hk1
  have hnx : unguardedSlew k ks cur tgt = f32AddFinite cur (f32Mul k ks (f32Sub k tgt cur)) :=
    f32Add_finite hc hp
  have hnxn : f32IsNaN (unguardedSlew k ks cur tgt) = false := hnx ▸ f32IsNaN_addFinite _ _
  have hnxu := hnx ▸ f32Units_addFinite cur (f32Mul k ks (f32Sub k tgt cur))
  by_cases hct : f32Le cur tgt = true
  · obtain ⟨_, _, hle⟩ := (f32Le_iff cur tgt).mp hct
    have hmove := (hpos (hdu ▸ roundSigned_nonneg Nat.one_pos (by omega))).1
    have hge : f32Units cur ≤ f32Units (unguardedSlew k ks cur tgt) :=
      hnxu ▸ f32Units_le_roundSigned hc Nat.one_pos (by omega)
    rw [slew_of_le hct]
    exact .inl (inRange_upperGuard hct ((f32Le_iff _ _).mpr ⟨hcn, hnxn, hge⟩))
  · have htc : f32Units tgt ≤ f32Units cur :=
      le_of_not_ge fun hle => hct ((f32Le_iff cur tgt).mpr ⟨hcn, htn, hle⟩)
    have hmove := (hneg (hdu ▸ roundSigned_nonpos Nat.one_pos (by omega))).2
    have hle : f32Units (unguardedSlew k ks cur tgt) ≤ f32Units cur :=
      hnxu ▸ roundSigned_le_f32Units hc Nat.one_pos (by omega)
    rw [slew_of_not_le hct]
    exact .inr (inRange_lowerGuard ((f32Le_iff _ _).mpr ⟨htn, hcn, htc⟩)
      ((f32Le_iff _ _).mpr ⟨hnxn, hcn, hle⟩))

theorem f32Le_trans {a b c : F32} (h : f32Le a b = true) (h' : f32Le b c = true) : f32Le a c = true := by
  obtain ⟨ha, _, hab⟩ := (f32Le_iff a b).mp h
  obtain ⟨_, hc, hbc⟩ := (f32Le_iff b c).mp h'
  exact (f32Le_iff a c).mpr ⟨ha, hc, hab.trans hbc⟩

/-- Between two values of a range there are only values of the range. -/
theorem InRange.between {lo hi a b v : F32} (ha : InRange lo hi a) (hb : InRange lo hi b)
    (h : InRange a b v) : InRange lo hi v :=
  ⟨f32Le_trans ha.1 h.1, f32Le_trans h.2 hb.2⟩

/-! ### Literals: the binary32 nearest to a fraction of naturals (40_numerics.md R87) -/

theorem f32Sign_lit (p q : Nat) : f32Sign (f32Lit p q) = false := f32Sign_pack _ (roundUnits_lt _ _)

theorem f32IsNaN_lit (p q : Nat) : f32IsNaN (f32Lit p q) = false := f32IsNaN_pack_roundUnits _ _ _

theorem f32Units_lit (p q : Nat) : f32Units (f32Lit p q) = lowUnits (roundUnits (p * 2 ^ 149) q) := by
  simp [f32Lit, f32Units_pack _ (roundUnits_lt _ _)]

theorem f32Units_lit_nonneg (p q : Nat) : 0 ≤ f32Units (f32Lit p q) := by
  rw [f32Units_lit]
  exact Int.natCast_nonneg _

/-- Literals are ordered as the fractions they stand for. -/
theorem f32Le_lit {p q p' q' : Nat} (hq : 0 < q) (hq' : 0 < q') (h : p * q' ≤ p' * q) :
    f32Le (f32Lit p q) (f32Lit p' q') = true := by
  have hm : p * 2 ^ 149 * q' ≤ p' * 2 ^ 149 * q := by nlinarith [Nat.two_pow_pos 149]
  rw [f32Le_iff, f32Units_lit, f32Units_lit]
  exact ⟨f32IsNaN_lit _ _, f32IsNaN_lit _ _,
    by exact_mod_cast lowUnits_strictMono.monotone (roundUnits_mono hq hq' hm)⟩

theorem f32Finite_lit_of_le {p q p' q' : Nat} (hq : 0 < q) (hq' : 0 < q') (h : p * q' ≤ p' * q)
    (hf : f32Finite (f32Lit p' q') = true) : f32Finite (f32Lit p q) = true := by
  obtain ⟨_, _, hle⟩ := (f32Le_iff _ _).mp (f32Le_lit hq hq' h)
  have := f32Units_lit_nonneg p q
  exact f32Finite_of_natAbs_le (by omega) hf

/-- Every whole number of 24 bits, scaled by a power of two, is the magnitude of a finite pattern. -/
theorem exists_lowUnits_eq (e : Nat) : ∀ m < 16777216, ∃ low,
    lowUnits low = m * 2 ^ e ∧ low ≤ e * 8388608 + 16777215 := by
  induction e with
  | zero => exact fun m hm => ⟨m, by simpa using lowUnits_shift 0 m hm (.inl rfl), by omega⟩
  | succ e ih =>
    intro m hm
    by_cases hf : 8388608 ≤ m
    · exact ⟨(e + 1) * 8388608 + m, lowUnits_shift (e + 1) m hm (.inr hf), by omega⟩
    · obtain ⟨low, h, hl⟩ := ih (2 * m) (by omega)
      exact ⟨low, by rw [h, pow_succ]; ring, hl.trans (by gcongr; exact Nat.le_succ e)⟩

/-- `of_nat` is exact on the whole numbers of 24 bits (40_numerics.md R82). -/
theorem f32Magnitude_lit {m : Nat} (h : m < 16777216) : f32Magnitude (f32Lit m 1) = m * 2 ^ 149 := by
  obtain ⟨low, he, hl⟩ := exists_lowUnits_eq 149 m h
  have hr : roundUnits (m * 2 ^ 149) 1 = low := by
    rw [← he, ← Nat.mul_one (lowUnits low)]
    exact roundUnits_exact Nat.one_pos (by omega)
  rw [f32Lit, f32Magnitude_pack _ (roundUnits_lt _ _), hr, he]

theorem f32Value_lit {m : Nat} (h : m < 16777216) : f32Value (f32Lit m 1) = m := by
  have hne : (2 : ℚ) ^ 149 ≠ 0 := by positivity
  rw [f32Value, f32Units, f32Sign_lit, f32Magnitude_lit h]
  push_cast
  exact mul_div_cancel_right₀ _ hne

/-! ### The bounds of the legalised registers (10_state.md R19 to R22) -/

/-- A value between D_LO and D_HI (10_state.md R19, R29). -/
def DelayInRange (c : Config) (v : F32) : Prop := InRange (dLo builtNum) (dHi builtNum c) v

section legalConfig

variable {c : Config} (hc : c.legal = true)
include hc

theorem f32Le_dLo_dHi : f32Le (dLo builtNum) (dHi builtNum c) = true := by
  obtain ⟨_, _, hn, _⟩ := (Config.legal_iff c).mp hc
  exact f32Le_lit Nat.one_pos Nat.one_pos (by omega)

theorem f32Finite_dHi : f32Finite (dHi builtNum c) = true := by
  obtain ⟨_, _, _, hn, _⟩ := (Config.legal_iff c).mp hc
  have hmax : f32Finite (f32Lit 16777216 1) = true := by decide +kernel
  exact f32Finite_lit_of_le Nat.one_pos Nat.one_pos (by omega) hmax

/-- A delay in range is finite and not negative. -/
theorem DelayInRange.finite {v : F32} (h : DelayInRange c v) :
    f32Finite v = true ∧ 0 ≤ f32Units v := by
  obtain ⟨_, _, hle⟩ := (f32Le_iff _ _).mp h.1
  have h2 : f32Finite (dLo builtNum) = true := by decide +kernel
  exact ⟨InRange.finite h h2 (f32Finite_dHi hc), (f32Units_lit_nonneg 2 1).trans hle⟩

/-- K_SLEW lies in [0, 1] after rounding to binary32 (00_scope.md R6). -/
theorem kSlew_bounds (k : Nat) : f32Finite (kSlew (f32Num k) c) = true ∧
    0 ≤ f32Units (kSlew (f32Num k) c) ∧ f32Units (kSlew (f32Num k) c) ≤ 2 ^ 149 := by
  obtain ⟨_, _, _, _, h0, h1⟩ := (Config.legal_iff c).mp hc
  have hd : 0 < c.kSlewDen := by omega
  have hle : c.kSlewNum * 1 ≤ 1 * c.kSlewDen := by omega
  have hone : f32Units (f32Lit 1 1) = 2 ^ 149 := by decide +kernel
  obtain ⟨_, _, hu⟩ := (f32Le_iff _ _).mp (f32Le_lit hd Nat.one_pos hle)
  exact ⟨f32Finite_lit_of_le hd Nat.one_pos hle (by decide +kernel), f32Units_lit_nonneg _ _,
    hu.trans hone.le⟩

/-- A slew step between delays in range ends in range (41_delay_line.md R103, 10_state.md R36 (b)). -/
theorem slew_delayInRange (k : Nat) {cur tgt : F32} (hcur : DelayInRange c cur)
    (htgt : DelayInRange c tgt) : DelayInRange c (slew (f32Num k) (kSlew (f32Num k) c) cur tgt) := by
  obtain ⟨hk, hk0, hk1⟩ := kSlew_bounds hc k
  obtain ⟨hcf, hc0⟩ := hcur.finite hc
  obtain ⟨htf, ht0⟩ := htgt.finite hc
  rcases slew_between k hk hk0 hk1 hcf htf hc0 ht0 with h | h
  · exact hcur.between htgt h
  · exact htgt.between hcur h

theorem dReset_delayInRange : DelayInRange c (dReset builtNum c) := by
  obtain ⟨_, _, hn, _⟩ := (Config.legal_iff c).mp hc
  exact ⟨f32Le_lit Nat.one_pos Nat.one_pos (by omega), f32Le_lit Nat.one_pos Nat.one_pos (by omega)⟩

end legalConfig

/-- HZ_MAX is a number at least 0 when the rate is finite. -/
theorem f32Le_zero_hzMax {c : Config} (hr : f32Finite (sampleRate builtNum c) = true) :
    f32Le (zero builtNum) (hzMax builtNum c) = true := by
  have hf : f32Finite (fMax builtNum) = true := by decide +kernel
  have hpos : 0 ≤ f32Units (fMax builtNum) * f32Units (sampleRate builtNum c) :=
    mul_nonneg (f32Units_lit_nonneg _ _) (f32Units_lit_nonneg _ _)
  have h0 : f32Units (zero builtNum) = 0 := by decide +kernel
  refine (f32Le_iff _ _).mpr ⟨f32IsNaN_lit _ _, f32IsNaN_mul hf hr, ?_⟩
  rw [h0]
  exact (roundSigned_nonneg (Nat.two_pow_pos 149) hpos).trans_eq (f32Units_mul hf hr).symm

theorem f32Le_zero_fbMax : f32Le (zero builtNum) (fbMax builtNum) = true := by decide +kernel

theorem f32Le_zero_flutMax : f32Le (zero builtNum) (flutMax builtNum) = true := by decide +kernel

/-! ### What a command does to the spec's state -/

section stepped

variable {α : Type} [DecidableEq α]

/-- The spec's state after a STEP whose WR_IDX names a word of DL (`stepBlock_of_lt`): the delay stages, then
the tone filters and the limiter. -/
def stepped (O : Nat → Numerics α) (c : Config) (b : BlockState α) : BlockState α :=
  conditionOutput O c (afterDelayStages O c b) (dlRead (O 3) c (afterDelayStages O c b))

theorem stepBlock_eq_stepped {O : Nat → Numerics α} {c : Config} {b : BlockState α}
    (h : b.wrIdx.toNat < c.n) : stepBlock O c b = some (stepped O c b) :=
  stepBlock_of_lt h

variable (O : Nat → Numerics α) (c : Config) (b : BlockState α)

@[simp] theorem stepped_delayTarget : (stepped O c b).delayTarget = b.delayTarget := by
  simp [stepped, afterDelayStages]

@[simp] theorem stepped_toneHz : (stepped O c b).toneHz = b.toneHz := by
  simp [stepped, afterDelayStages]

@[simp] theorem stepped_fbGain : (stepped O c b).fbGain = b.fbGain := by
  simp [stepped, afterDelayStages]

@[simp] theorem stepped_flutDepth : (stepped O c b).flutDepth = b.flutDepth := by
  simp [stepped, afterDelayStages]

@[simp] theorem stepped_wrIdx : (stepped O c b).wrIdx = advanceIndex c b.wrIdx := by
  simp [stepped, afterDelayStages]

@[simp] theorem stepped_dl : (stepped O c b).dl =
    b.dl.write (zero (O 1)) b.wrIdx.toNat (drivenSample (O 1) b) := by
  simp [stepped, afterDelayStages]

theorem stepped_curDelay : (stepped O c b).curDelay =
    slew (O 2) (kSlew (O 2) c) b.curDelay
      (stepTarget (O 0) c (lfoAdvance b) (flutterOffset (O 0) (lfoAdvance b))) := by
  simp [stepped, afterDelayStages]

/-- STEP raises no flag but NONFINITE. -/
theorem stepped_status : (stepped O c b).status = b.status ∨
    (stepped O c b).status = raiseFlag .nonfinite b.status := by
  have h : (afterDelayStages O c b).status = b.status := by simp [afterDelayStages]
  rw [stepped, conditionOutput_status, h]
  split
  · exact .inr rfl
  · exact .inl rfl

end stepped

theorem raiseNonfiniteIf_eq {α : Type} (bad : Bool) (b : BlockState α) : raiseNonfiniteIf bad b =
    { b with status := if bad then raiseFlag .nonfinite b.status else b.status } := by
  cases bad <;> rfl

theorem routeBlock_eq {α : Type} (O : Numerics α) (b : BlockState α) :
    routeBlock O b = { b with fb := (routeBlock O b).fb, status := (routeBlock O b).status } := by
  simp only [routeBlock, raiseNonfiniteIf_eq]

theorem routeBlock_status_cases {α : Type} (O : Numerics α) (b : BlockState α) :
    (routeBlock O b).status = b.status ∨ (routeBlock O b).status = raiseFlag .nonfinite b.status := by
  rw [routeBlock_status]
  split
  · exact .inr rfl
  · exact .inl rfl

/-- `b` is what a command makes of the spec's part of `s` when it completes: one case per command. -/
def BlockAfter (i : Instr) (s : State) (b : BlockState F32) : Prop :=
  match i with
  | .nop => b = s.toBlockState
  | .wr reg data =>
    writeRegister s.cfg s.toBlockState reg data = some b ∨ b = s.toBlockState.raise .badreg
  | .rd _ => b = s.toBlockState ∨ b = s.toBlockState.raise .badreg
  | .step => s.wrIdx.toNat < s.cfg.n ∧ b = stepped (drawsFrom s) s.cfg s.toBlockState
  | .route => b = routeBlock (f32Num s.draws) s.toBlockState
  | .tick => s.wrIdx.toNat < s.cfg.n ∧
      b = routeBlock (f32Num (s.draws + stepDraws)) (stepped (drawsFrom s) s.cfg s.toBlockState)
  | .init => b = BlockState.initial builtNum s.cfg

theorem stepState_eq_stepped {s t : State} (h : stepState s = .next t) :
    s.wrIdx.toNat < s.cfg.n ∧
      t = (s.withBlock (stepped (drawsFrom s) s.cfg s.toBlockState)).drew stepDraws := by
  obtain ⟨hw, b, hb, rfl⟩ := stepState_eq_next h
  rw [stepBlock_eq_stepped hw] at hb
  exact ⟨hw, by rw [Option.some.inj hb]⟩

theorem exec_blockAfter {i : Instr} {s t : State} (h : exec i s = .next t) :
    BlockAfter i s t.toBlockState := by
  cases i with
  | nop => cases h; rfl
  | wr reg data =>
    simp only [exec, execWr] at h
    split at h
    next b hb => cases h; exact .inl hb
    next => cases h; exact .inr rfl
  | rd reg =>
    simp only [exec, execRd] at h
    split at h
    next => cases h; exact .inl rfl
    next => cases h; exact .inr rfl
  | step =>
    obtain ⟨u, hu, rfl⟩ := onNext_eq_next h
    obtain ⟨hw, rfl⟩ := stepState_eq_stepped hu
    exact ⟨hw, rfl⟩
  | route => cases h; rfl
  | tick =>
    obtain ⟨u, hu, rfl⟩ := onNext_eq_next h
    obtain ⟨hw, rfl⟩ := stepState_eq_stepped hu
    exact ⟨hw, rfl⟩
  | init => cases h; rfl

/-- Each register with a legal range is left by a WR or gets the legal value of the data. -/
theorem writeRegister_ranged {c : Config} {b b' : BlockState F32} {reg : RegIdx} {data : Word}
    (h : writeRegister c b reg data = some b') :
    (b'.delayTarget = b.delayTarget ∨ b'.delayTarget = legalDelayTarget builtNum c data) ∧
    (b'.toneHz = b.toneHz ∨ b'.toneHz = legalToneHz builtNum c data) ∧
    (b'.fbGain = b.fbGain ∨ b'.fbGain = legalFbGain builtNum data) ∧
    (b'.flutDepth = b.flutDepth ∨ b'.flutDepth = legalFlutDepth builtNum data) := by
  unfold writeRegister writeRegisterAs at h
  split at h
  case h_8 =>
    obtain ⟨m, _, rfl⟩ := Option.map_eq_some_iff.mp h
    simp
  all_goals (cases h <;> simp)

/-! ### Legal states (10_state.md R36) -/

section LegalBlock

variable {c : Config} {b : BlockState F32}

/-- FB and STATUS are in no clause of R36. -/
theorem LegalBlock.withFbStatus (h : LegalBlock c b) (fb : F32) (status : BitVec 3) :
    LegalBlock c { b with fb := fb, status := status } :=
  ⟨h.wrIdx, h.curDelay, h.delayTarget, h.toneHz, h.fbGain, h.flutDepth, h.memory⟩

theorem LegalBlock.raise (h : LegalBlock c b) (f : StatusBit) : LegalBlock c (b.raise f) :=
  h.withFbStatus b.fb _

theorem LegalBlock.route (h : LegalBlock c b) (k : Nat) : LegalBlock c (routeBlock (f32Num k) b) := by
  rw [routeBlock_eq]
  exact h.withFbStatus _ _

theorem LegalBlock.initial (hc : c.legal = true) (hr : f32Finite (sampleRate builtNum c) = true) :
    LegalBlock c (BlockState.initial builtNum c) := by
  have hz : f32IsNaN (zero builtNum) = false := f32IsNaN_lit _ _
  have hhz := f32Le_zero_hzMax hr
  obtain ⟨_, hhzn, _⟩ := (f32Le_iff _ _).mp hhz
  obtain ⟨_, _, hn, _⟩ := (Config.legal_iff c).mp hc
  exact
    { wrIdx := show 0 < c.n by omega
      curDelay := dReset_delayInRange hc
      delayTarget := dReset_delayInRange hc
      toneHz := ⟨hhz, f32Le_refl hhzn⟩
      fbGain := ⟨f32Le_refl hz, f32Le_zero_fbMax⟩
      flutDepth := ⟨f32Le_refl hz, f32Le_zero_flutMax⟩
      memory := Memory.wf_nil }

theorem LegalBlock.written (h : LegalBlock c b) (hc : c.legal = true)
    (hr : f32Finite (sampleRate builtNum c) = true) {b' : BlockState F32} {reg : RegIdx} {data : Word}
    (hw : writeRegister c b reg data = some b') : LegalBlock c b' := by
  obtain ⟨hdl, _, _, hcur, hidx, _⟩ := writeRegister_frame hw
  obtain ⟨hdt, hhz, hgain, hdepth⟩ := writeRegister_ranged hw
  refine ⟨hidx ▸ h.wrIdx, hcur ▸ h.curDelay, ?_, ?_, ?_, ?_, hdl ▸ h.memory⟩
  · rcases hdt with e | e <;> rw [e]
    · exact h.delayTarget
    · exact clampN_inRange 0 data (f32Le_dLo_dHi hc)
  · rcases hhz with e | e <;> rw [e]
    · exact h.toneHz
    · exact clampN_inRange 0 data (f32Le_zero_hzMax hr)
  · rcases hgain with e | e <;> rw [e]
    · exact h.fbGain
    · exact clampN_inRange 0 data f32Le_zero_fbMax
  · rcases hdepth with e | e <;> rw [e]
    · exact h.flutDepth
    · exact clampN_inRange 0 data f32Le_zero_flutMax

/-- STEP keeps R36: WR_IDX is reduced modulo N, CUR_DELAY slews between delays in range, and the word it
writes has an address below N. -/
theorem LegalBlock.stepped (h : LegalBlock c b) (hc : c.legal = true) (d : Nat) :
    LegalBlock c (stepped (fun j => f32Num (d + j)) c b) where
  wrIdx := by
    rw [stepped_wrIdx]
    exact advanceIndex_lt hc _
  curDelay := by
    rw [stepped_curDelay]
    exact slew_delayInRange hc _ h.curDelay (clampN_inRange _ _ (f32Le_dLo_dHi hc))
  delayTarget := by simpa using h.delayTarget
  toneHz := by simpa using h.toneHz
  fbGain := by simpa using h.fbGain
  flutDepth := by simpa using h.flutDepth
  memory := by
    rw [stepped_dl]
    exact Memory.wf_write _ h.memory h.wrIdx

end LegalBlock

/-- Every command that completes keeps a legal state legal, whatever the operands. -/
theorem LegalState.exec {i : Instr} {s t : State} (hs : LegalState s) (h : exec i s = .next t) :
    LegalState t := by
  obtain ⟨hcfg, _, _⟩ := exec_eq_next h
  obtain ⟨hc, hr, hb⟩ := hs
  have ha := exec_blockAfter h
  suffices hblock : LegalBlock s.cfg t.toBlockState from
    ⟨hcfg ▸ hc, hcfg ▸ hr, hcfg ▸ hblock⟩
  cases i with
  | nop => exact ha ▸ hb
  | wr reg data =>
    rcases ha with hw | e
    · exact hb.written hc hr hw
    · exact e ▸ hb.raise _
  | rd reg =>
    rcases ha with e | e
    · exact e ▸ hb
    · exact e ▸ hb.raise _
  | step =>
    obtain ⟨_, e⟩ := ha
    exact e ▸ hb.stepped hc s.draws
  | route => exact ha ▸ hb.route _
  | tick =>
    obtain ⟨_, e⟩ := ha
    exact e ▸ (hb.stepped hc s.draws).route _
  | init => exact ha ▸ LegalBlock.initial hc hr

/-- Settles O58: idle, `rst` and an illegal word by the block's own lemmas, a command by
`LegalState.exec`. -/
theorem legalStateIsInvariant : Obligations.LegalStateIsInvariant := by
  intro s t hs h
  obtain ⟨hc, hidle | ⟨rest, _, rfl⟩ | ⟨w, rest, why, _, _, rfl⟩ | ⟨w, rest, i, _, _, he⟩⟩ :=
    step_eq_next h
  · rw [hidle.2]
    exact ⟨hs.config, hs.rate, hs.block⟩
  · exact ⟨hs.config, hs.rate, LegalBlock.initial hs.config hs.rate⟩
  · exact ⟨hs.config, hs.rate, hs.block.raise _⟩
  · have hs' : LegalState (s.withPort rest) := ⟨hs.config, hs.rate, hs.block⟩
    exact hs'.exec he

/-! ### STATUS: what sets its bits, and that they steer nothing (10_state.md R28) -/

theorem raiseFlag_idem (f : StatusBit) (v : BitVec 3) : raiseFlag f (raiseFlag f v) = raiseFlag f v := by
  rw [raiseFlag, raiseFlag, BitVec.or_assoc, BitVec.or_self]

/-- STATUS after a command: each may set the one flag of its kind, and only INIT clears (60_exceptions.md
R192). -/
theorem exec_status {i : Instr} {s t : State} (h : exec i s = .next t) :
    match i with
    | .nop => t.status = s.status
    | .wr _ _ => t.status = s.status ∨ t.status = raiseFlag .badreg s.status
    | .rd _ => t.status = s.status ∨ t.status = raiseFlag .badreg s.status
    | .step => t.status = s.status ∨ t.status = raiseFlag .nonfinite s.status
    | .route => t.status = s.status ∨ t.status = raiseFlag .nonfinite s.status
    | .tick => t.status = s.status ∨ t.status = raiseFlag .nonfinite s.status
    | .init => t.status = 0#3 := by
  have ha := exec_blockAfter h
  cases i with
  | nop => exact congrArg BlockState.status ha
  | wr reg data =>
    rcases ha with hw | e
    · exact .inl (writeRegister_frame hw).2.1
    · exact .inr (congrArg BlockState.status e)
  | rd reg =>
    rcases ha with e | e
    · exact .inl (congrArg BlockState.status e)
    · exact .inr (congrArg BlockState.status e)
  | step => exact ha.2 ▸ stepped_status _ _ _
  | route => exact ha ▸ routeBlock_status_cases _ _
  | tick =>
    obtain ⟨_, e⟩ := ha
    simp only [e]
    rcases routeBlock_status_cases (f32Num (s.draws + stepDraws))
      (stepped (drawsFrom s) s.cfg s.toBlockState) with hr | hr <;> rw [hr]
    · exact stepped_status _ _ _
    · right
      rcases stepped_status (drawsFrom s) s.cfg s.toBlockState with hs | hs <;> rw [hs]
      exact raiseFlag_idem _ _
  | init => exact congrArg BlockState.status ha

theorem step_cfg {s t : State} (h : step s = .next t) : t.cfg = s.cfg := by
  obtain ⟨_, ⟨_, rfl⟩ | ⟨rest, _, rfl⟩ | ⟨w, rest, why, _, _, rfl⟩ | ⟨w, rest, i, _, _, he⟩⟩ :=
    step_eq_next h
  · rfl
  · rfl
  · rfl
  · exact (exec_eq_next he).1

/-- Settles O10: the parameters by the four outcomes of a step, STATUS by `exec_status`. -/
theorem configurationKeptAndFlagsSticky : Obligations.ConfigurationKeptAndFlagsSticky := by
  refine ⟨fun s t => step_cfg, fun i s t h => ?_⟩
  have hst := exec_status h
  cases i <;> exact hst

/-- A block with any other STATUS differs from it in STATUS only. -/
theorem SameButStatus.eq_withStatus {a b : BlockState F32} (h : SameButStatus a b) :
    a = { b with status := a.status } := by
  calc a = { { a with status := b.status } with status := a.status } := rfl
    _ = { b with status := a.status } := by rw [h]

theorem SameButStatus.yOut_eq {a b : BlockState F32} (h : SameButStatus a b) : a.yOut = b.yOut := by
  rw [h.eq_withStatus]

theorem SameButStatus.fb_eq {a b : BlockState F32} (h : SameButStatus a b) : a.fb = b.fb := by
  rw [h.eq_withStatus]

theorem stepped_sameButStatus (O : Nat → Numerics F32) (c : Config) (b : BlockState F32) (v : BitVec 3) :
    SameButStatus (stepped O c { b with status := v }) (stepped O c b) := by
  simp only [SameButStatus, stepped, conditionOutput, raiseNonfiniteIf_eq]
  rfl

theorem SameButStatus.route {a b : BlockState F32} (h : SameButStatus a b) (O : Numerics F32) :
    SameButStatus (routeBlock O a) (routeBlock O b) := by
  rw [h.eq_withStatus]
  simp only [SameButStatus, routeBlock, raiseNonfiniteIf_eq]
  rfl

/-- A WR stores the same whatever STATUS holds. -/
theorem writeRegister_withStatus (c : Config) (b : BlockState F32) (reg : RegIdx) (data : Word)
    (v : BitVec 3) : writeRegister c { b with status := v } reg data =
      (writeRegister c b reg data).map fun b' => { b' with status := v } := by
  unfold writeRegister writeRegisterAs
  split <;> simp
  -- MODE, where the data decides whether anything is stored
  rfl

/-- A RD of any register but STATUS answers the same whatever STATUS holds. -/
theorem readRegister_withStatus (b : BlockState F32) {reg : RegIdx} (h : reg ≠ 0x11#8) (v : BitVec 3) :
    readRegister { b with status := v } reg = readRegister b reg := by
  have hn : reg.toNat ≠ 0x11 := fun e => h (BitVec.eq_of_toNat_eq e)
  unfold readRegister readRegisterAs
  split <;> simp_all

/-! The arms of WR, RD, STEP and TICK, as equations. -/

theorem exec_wr_of_some {s : State} {reg : RegIdx} {data : Word} {b : BlockState F32}
    (h : writeRegister s.cfg s.toBlockState reg data = some b) :
    exec (.wr reg data) s = .next ((s.withBlock b).respond 0#32) := by
  simp only [exec, execWr, h]

theorem exec_wr_of_none {s : State} {reg : RegIdx} {data : Word}
    (h : writeRegister s.cfg s.toBlockState reg data = none) :
    exec (.wr reg data) s = .next ((s.flag .badreg).respond 0#32) := by
  simp only [exec, execWr, h]

theorem exec_rd_of_some {s : State} {reg : RegIdx} {w : Word}
    (h : readRegister s.toBlockState reg = some w) : exec (.rd reg) s = .next (s.respond w) := by
  simp only [exec, execRd, h]

theorem exec_rd_of_none {s : State} {reg : RegIdx} (h : readRegister s.toBlockState reg = none) :
    exec (.rd reg) s = .next ((s.flag .badreg).respond 0#32) := by
  simp only [exec, execRd, h]

theorem exec_step_of_some {s : State} {b : BlockState F32}
    (h : stepBlock (drawsFrom s) s.cfg s.toBlockState = some b) :
    exec .step s = .next (((s.withBlock b).drew stepDraws).respond b.yOut) := by
  simp only [exec, execStep, stepState, h]
  rfl

theorem exec_tick_of_some {s : State} {b : BlockState F32}
    (h : stepBlock (drawsFrom s) s.cfg s.toBlockState = some b) :
    exec .tick s = .next ((routeState ((s.withBlock b).drew stepDraws)).respond b.yOut) := by
  simp only [exec, execTick, stepState, h]
  rfl

/-- The number types of the draws do not depend on the spec's state. -/
theorem drawsFrom_withStatus (s : State) (v : BitVec 3) :
    drawsFrom { s with status := v } = drawsFrom s := rfl

/-- Settles O11: the same arm of the command answers in both runs, and every operation in it keeps
`SameButStatus`. -/
theorem statusSteersNothing : Obligations.StatusSteersNothing := by
  intro i s t v h
  cases i with
  | nop => cases h; exact ⟨_, rfl, rfl, rfl, rfl, rfl, fun _ => rfl⟩
  | wr reg data =>
    have hv := writeRegister_withStatus s.cfg s.toBlockState reg data v
    cases hb : writeRegister s.cfg s.toBlockState reg data with
    | some b =>
      cases (exec_wr_of_some hb).symm.trans h
      rw [hb, Option.map_some] at hv
      exact ⟨_, exec_wr_of_some (s := { s with status := v }) hv, rfl, rfl, rfl, rfl, fun _ => rfl⟩
    | none =>
      cases (exec_wr_of_none hb).symm.trans h
      rw [hb, Option.map_none] at hv
      exact ⟨_, exec_wr_of_none (s := { s with status := v }) hv, rfl, rfl, rfl, rfl, fun _ => rfl⟩
  | rd reg =>
    by_cases hreg : reg = 0x11#8
    · subst hreg
      cases h
      exact ⟨_, rfl, rfl, rfl, rfl, rfl, fun hne => absurd rfl hne⟩
    · have hv := readRegister_withStatus s.toBlockState hreg v
      cases hw : readRegister s.toBlockState reg with
      | some w =>
        cases (exec_rd_of_some hw).symm.trans h
        exact ⟨_, exec_rd_of_some (s := { s with status := v }) (hv.trans hw), rfl, rfl, rfl, rfl,
          fun _ => rfl⟩
      | none =>
        cases (exec_rd_of_none hw).symm.trans h
        exact ⟨_, exec_rd_of_none (s := { s with status := v }) (hv.trans hw), rfl, rfl, rfl, rfl,
          fun _ => rfl⟩
  | step =>
    obtain ⟨hw, _⟩ := exec_blockAfter h
    have hb := stepped_sameButStatus (drawsFrom s) s.cfg s.toBlockState v
    have hv : stepBlock (drawsFrom { s with status := v }) s.cfg { s.toBlockState with status := v } =
        some (stepped (drawsFrom s) s.cfg { s.toBlockState with status := v }) := by
      rw [drawsFrom_withStatus]
      exact stepBlock_eq_stepped hw
    cases (exec_step_of_some (stepBlock_eq_stepped hw)).symm.trans h
    exact ⟨_, exec_step_of_some (s := { s with status := v }) hv, hb, by simp, by simp, by simp,
      fun _ => congrArg some hb.yOut_eq⟩
  | route =>
    have hb := SameButStatus.route (a := { s.toBlockState with status := v }) (b := s.toBlockState) rfl
      (f32Num s.draws)
    cases h
    exact ⟨_, rfl, hb, rfl, rfl, rfl, fun _ => congrArg some hb.fb_eq⟩
  | tick =>
    obtain ⟨hw, _⟩ := exec_blockAfter h
    have hb := stepped_sameButStatus (drawsFrom s) s.cfg s.toBlockState v
    have hv : stepBlock (drawsFrom { s with status := v }) s.cfg { s.toBlockState with status := v } =
        some (stepped (drawsFrom s) s.cfg { s.toBlockState with status := v }) := by
      rw [drawsFrom_withStatus]
      exact stepBlock_eq_stepped hw
    cases (exec_tick_of_some (stepBlock_eq_stepped hw)).symm.trans h
    exact ⟨_, exec_tick_of_some (s := { s with status := v }) hv, hb.route _, by simp, by simp, by simp,
      fun _ => congrArg some hb.yOut_eq⟩
  | init => cases h; exact ⟨_, rfl, rfl, rfl, rfl, rfl, fun _ => rfl⟩

/-! ### The registers that only STEP writes, and the side-band outputs (10_state.md R33, R34) -/

/-- A command other than STEP, TICK and INIT keeps DL, the filter memories, WR_IDX, CUR_DELAY and Y_OUT. -/
theorem BlockAfter.signalState {i : Instr} {s : State} {b : BlockState F32} (h : BlockAfter i s b)
    (hs : i ≠ .step) (ht : i ≠ .tick) (hi : i ≠ .init) :
    b.dl = s.dl ∧ b.taY0 = s.taY0 ∧ b.tbY0 = s.tbY0 ∧ b.dcX1 = s.dcX1 ∧ b.dcY1 = s.dcY1 ∧
      b.wrIdx = s.wrIdx ∧ b.curDelay = s.curDelay ∧ b.yOut = s.yOut := by
  cases i with
  | nop => subst h; exact ⟨rfl, rfl, rfl, rfl, rfl, rfl, rfl, rfl⟩
  | wr reg data =>
    rcases h with hw | rfl
    · obtain ⟨hdl, _, hy, hcur, hidx, hta, htb, hx1, hy1⟩ := writeRegister_frame hw
      exact ⟨hdl, hta, htb, hx1, hy1, hidx, hcur, hy⟩
    · exact ⟨rfl, rfl, rfl, rfl, rfl, rfl, rfl, rfl⟩
  | rd reg =>
    rcases h with rfl | rfl
    · exact ⟨rfl, rfl, rfl, rfl, rfl, rfl, rfl, rfl⟩
    · exact ⟨rfl, rfl, rfl, rfl, rfl, rfl, rfl, rfl⟩
  | step => exact absurd rfl hs
  | route =>
    rw [BlockAfter, routeBlock_eq] at h
    subst h
    exact ⟨rfl, rfl, rfl, rfl, rfl, rfl, rfl, rfl⟩
  | tick => exact absurd rfl ht
  | init => exact absurd rfl hi

/-- Settles O29, by the frame of the four other commands. -/
theorem onlyStepTouchesSignalState : Obligations.OnlyStepTouchesSignalState := by
  intro i s t hs ht hi h
  obtain ⟨hdl, hrest⟩ := (exec_blockAfter h).signalState hs ht hi
  exact ⟨fun a => by rw [delayWord, delayWord, hdl], hrest⟩

/-- Settles O21, mode by mode. -/
theorem sideBandOutputs : Obligations.SideBandOutputs := by
  intro s
  refine ⟨rfl, ?_⟩
  cases hm : s.mode <;> simp [modeReversePin, modeFreezePin, hm]

/-! ### The reset state (10_state.md R35) -/

/-- The reset increment is the rounded ratio of R6, from the exact rate (log entry 12). -/
theorem incReset_eq {c : Config} (hc : c.legal = true) (p : Nat) {q : Nat} (hq : 0 < q) :
    incReset p q c = BitVec.ofInt 32 ⌊(p / q : ℚ) * 2 ^ 32 / exactRate c + 1 / 2⌋ := by
  obtain ⟨hnum, hden, _⟩ := (Config.legal_iff c).mp hc
  have hnum' : (c.fsNum : ℚ) ≠ 0 := by positivity
  have hden' : (c.fsDen : ℚ) ≠ 0 := by positivity
  have hq' : (q : ℚ) ≠ 0 := by positivity
  have he : (p / q : ℚ) * 2 ^ 32 / exactRate c + 1 / 2 =
      ((2 * p * 2 ^ 32 * c.fsDen + q * c.fsNum : Nat) : ℚ) / ((2 * q * c.fsNum : Nat) : ℚ) := by
    rw [exactRate]
    push_cast
    field_simp
    ring
  rw [he, Rat.floor_natCast_div_natCast, incReset, ← BitVec.ofInt_natCast]
  push_cast
  rfl

/-- The reset block is the table of R35, for every legal configuration. -/
theorem isResetBlock_initial {c : Config} (hc : c.legal = true) :
    IsResetBlock c (BlockState.initial builtNum c) := by
  obtain ⟨_, _, _, hn, _⟩ := (Config.legal_iff c).mp hc
  have hz : zero builtNum = 0x00000000#32 := zero_f32 0
  have hhz : hzMax builtNum c = f32Mul 0 0x3EFE76C9#32 (f32Lit c.fsNum c.fsDen) := by
    rw [hzMax, builtNum_eq, fMax_f32]
    rfl
  exact
    { xIn := hz, revIn := hz, fb := hz, yOut := hz, fbGain := hz, flutDepth := hz
      taY0 := hz, tbY0 := hz, dcX1 := hz, dcY1 := hz
      delay := fun _ => hz
      delayTarget := ⟨f32Sign_lit _ _, f32Value_lit (by omega)⟩
      curDelay := rfl
      toneHz := hhz
      mode := rfl, filtCfg := rfl, phA := rfl, phB := rfl, wrIdx := rfl, status := rfl
      lfoAInc := by simpa [BlockState.initial, incAReset] using incReset_eq hc 4 (q := 10) (by decide)
      lfoBInc := by simpa [BlockState.initial, incBReset] using incReset_eq hc 35 (q := 10) (by decide) }

/-- Settles O20: the table by `isResetBlock_initial`, the default patterns by evaluation. -/
theorem resetValues : Obligations.ResetValues := by
  have hdelay : dReset builtNum Config.default = 0x41000000#32 := by decide +kernel
  exact ⟨fun c hc => isResetBlock_initial hc, fun s hs => ⟨_, rfl, isResetBlock_initial hs⟩,
    hdelay, hdelay, hzMax_default_f32 0, by decide, by decide⟩

/-- Settles O7: the idle step, and the reset block at an `rst`. -/
theorem idleAndReset : Obligations.IdleAndReset := by
  intro s hc
  have hs : step s = runPort s := if_pos hc
  constructor
  · intro hp
    have hr : runPort s = .next s.silent := by rw [runPort, hp]
    exact hs.trans hr
  · intro rest hp
    have hr : runPort s = .next (s.withPort rest).afterReset := by
      rw [runPort, hp]
      rfl
    exact ⟨_, hs.trans hr, isResetBlock_initial hc, rfl, rfl, rfl, rfl⟩

theorem LegalState.resetWith {c : Config} (hc : c.legal = true)
    (hr : f32Finite (f32Lit c.fsNum c.fsDen) = true) : LegalState (State.resetWith c) :=
  ⟨hc, hr, LegalBlock.initial hc hr⟩

/-- Every bound of the contract admits the zeros of the reset block. -/
theorem BoundedBlock.initial (c : Config) : BoundedBlock (BlockState.initial builtNum c) := by
  have hz : zero builtNum = 0x00000000#32 := zero_f32 0
  have within_zero (bound : F32) (h : f32Le (f32Neg bound) 0x00000000#32 = true)
      (h' : f32Le 0x00000000#32 bound = true) : Within bound (zero builtNum) := hz ▸ ⟨h, h'⟩
  exact
    { delay := fun _ => within_zero _ (by decide) (by decide)
      yOut := within_zero _ (by decide) (by decide)
      taY0 := within_zero _ (by decide) (by decide)
      tbY0 := within_zero _ (by decide) (by decide)
      dcX1 := within_zero _ (by decide) (by decide)
      dcY1 := within_zero _ (by decide) (by decide) }

theorem ContractState.resetWith {c : Config} (hc : c.legal = true)
    (hr : f32Finite (f32Lit c.fsNum c.fsDen) = true)
    (h1 : f32Le 0x3F800000#32 (f32Lit c.fsNum c.fsDen) = true) : ContractState (State.resetWith c) :=
  ⟨LegalState.resetWith hc hr, h1, BoundedBlock.initial c⟩

/-- Settles O57; the default parameters meet the two premises on the rate. -/
theorem resetIsLegal : Obligations.ResetIsLegal :=
  ⟨fun _ => LegalState.resetWith, fun _ => ContractState.resetWith,
    ContractState.resetWith (by decide) (by decide +kernel) (by decide +kernel)⟩

/-! ### Register access over REAL (10_state.md R15, 40_numerics.md R84) -/

theorem f32Value_neg_iff (a : F32) : (f32Value a).num < 0 ↔ f32Units a < 0 := by
  have hpos : (0 : ℚ) < 2 ^ 149 := by positivity
  rw [Rat.num_neg, f32Value, div_neg_iff]
  simp [hpos, not_lt.mpr hpos.le]

/-- The rational of a pattern in lowest terms is its units over 2^149. -/
theorem f32Value_num_mul (a : F32) :
    (f32Value a).num.natAbs * 2 ^ 149 = f32Magnitude a * (f32Value a).den := by
  have hpos : (2 : ℚ) ^ 149 ≠ 0 := by positivity
  have hden : ((f32Value a).den : ℚ) ≠ 0 := by exact_mod_cast (f32Value a).den_ne_zero
  have h : ((f32Value a).num : ℚ) * 2 ^ 149 = f32Units a * (f32Value a).den := by
    have he : ((f32Value a).num : ℚ) / (f32Value a).den = f32Units a / 2 ^ 149 :=
      (Rat.num_div_den _).trans rfl
    exact (div_eq_div_iff hden hpos).mp he
  have hi : (f32Value a).num * 2 ^ 149 = f32Units a * (f32Value a).den := by exact_mod_cast h
  have hn := congrArg Int.natAbs hi
  rwa [Int.natAbs_mul, Int.natAbs_mul, natAbs_f32Units, Int.natAbs_natCast] at hn

/-- But for -0.0, a pattern is signed exactly when its value is negative. -/
theorem f32Units_neg_iff {d : F32} (h : d ≠ 0x80000000#32) : f32Units d < 0 ↔ f32Sign d = true := by
  cases hs : f32Sign d with
  | false => simp [f32Units, hs]
  | true =>
    have hlow : 0 < d.toNat % 2147483648 := by
      by_contra hc
      have h0 : d.toNat % 2147483648 = 0 := by omega
      have hd := f32Pack_fields d
      rw [hs, h0] at hd
      exact h hd.symm
    have hmag : 0 < f32Magnitude d := by
      rw [f32Magnitude_eq]
      exact (Nat.zero_le _).trans_lt (lowUnits_strictMono hlow)
    simp [f32Units, hs, hmag]

/-- The bits of the rational that a finite pattern denotes are the pattern itself, but for -0.0, whose
rational has no sign (log entry 21). -/
theorem f32OfRat_f32Value {d : F32} (hd : f32Finite d = true) :
    f32OfRat (f32Value d) = if d = 0x80000000#32 then 0x00000000#32 else d := by
  have hlow := (f32Finite_iff_low d).mp hd
  have hround : roundUnits ((f32Value d).num.natAbs * 2 ^ 149) (f32Value d).den =
      d.toNat % 2147483648 := by
    rw [f32Value_num_mul, f32Magnitude_eq]
    exact roundUnits_exact (f32Value d).den_pos hlow
  by_cases h0 : d = 0x80000000#32
  · subst h0
    decide +kernel
  · have hsign : decide ((f32Value d).num < 0) = f32Sign d := by
      rw [Bool.eq_iff_iff, decide_eq_true_iff]
      exact (f32Value_neg_iff d).trans (f32Units_neg_iff h0)
    rw [if_neg h0, f32OfRat, hround, hsign, f32Pack_fields]

theorem realBitsToNum_of_finite {d : Word} (h : f32Finite d = true) :
    realBitsToNum d = some (f32Value d) := if_pos h

theorem realBitsToNum_of_not_finite {d : Word} (h : f32Finite d = false) : realBitsToNum d = none := by
  simp [realBitsToNum, h]

/-- `clampN` over REAL, on a range that is not empty. -/
theorem clampN_real {v lo hi : ℚ} (h : lo ≤ hi) : clampN realNum v lo hi = min (max v lo) hi := by
  by_cases hlo : lo ≤ v
  · by_cases hhi : hi < v
    · simp [clampN, realNum, hlo, hhi, hhi.le]
    · simp [clampN, realNum, hlo, hhi, not_lt.mp hhi]
  · have hv : v ≤ lo := (not_le.mp hlo).le
    simp [clampN, realNum, hlo, hv, h]

theorem legalDelayTarget_real {c : Config} (hc : c.legal = true) (v : ℚ) :
    legalDelayTarget realNum c v = min (max v 2) ((c.n : ℚ) - 2) := by
  obtain ⟨_, _, hn, _⟩ := (Config.legal_iff c).mp hc
  have hlo : dLo realNum = 2 := by simp [dLo, realNum]
  have hhi : dHi realNum c = (c.n : ℚ) - 2 := Nat.cast_sub (by omega)
  have hn' : (8 : ℚ) ≤ c.n := by exact_mod_cast hn
  rw [legalDelayTarget, hlo, hhi, clampN_real (by linarith)]

theorem legalFbGain_real (v : ℚ) : legalFbGain realNum v = min (max v 0) (12 / 10) := by
  have hlo : zero realNum = 0 := by simp [zero, realNum]
  have hhi : fbMax realNum = 12 / 10 := by simp [fbMax, realNum]
  rw [legalFbGain, hlo, hhi, clampN_real (by norm_num)]

/-- A WR of a read-only or unmapped index writes no register, over any number type (47_host_access.md
R172). -/
theorem writeRegisterAs_eq_none {α : Type} {O : Numerics α} {c : Config} {b : BlockState α} {reg : RegIdx}
    {data : Word} {v : α} (h : 0x0C < reg.toNat) : writeRegisterAs O c b reg data v = none := by
  unfold writeRegisterAs
  split
  case h_14 => rfl
  all_goals omega

theorem readOnly_or_unmapped_iff (reg : RegIdx) :
    ReadOnlyIndex reg ∨ UnmappedIndex reg ↔ 0x0C < reg.toNat := by
  unfold ReadOnlyIndex UnmappedIndex
  omega

/-- A RD of an unmapped index finds no register, over any number type (47_host_access.md R175). -/
theorem readRegisterAs_eq_none {α : Type} {toBits : α → Word} {b : BlockState α} {reg : RegIdx}
    (h : UnmappedIndex reg) : readRegisterAs toBits b reg = none := by
  rw [← Option.not_isSome_iff_eq_none, readRegisterAs_isSome]
  unfold UnmappedIndex at h
  omega

/-! WR over REAL, by what the register takes. -/

theorem realWr_of_number {c : Config} {reg : RegIdx} {d : Word} {b : BlockState ℚ} (h : reg.toNat ≤ 6) :
    realWr c reg d b = (realBitsToNum d).map fun v => realStore c reg d v b :=
  if_pos (decide_eq_true h)

theorem realWr_of_raw {c : Config} {reg : RegIdx} {d : Word} {b : BlockState ℚ} (h : 6 < reg.toNat) :
    realWr c reg d b = some (realStore c reg d 0 b) := by
  have hn : ¬ takesNumber reg = true := by simp [takesNumber, h]
  exact if_neg hn

theorem realExec_wr_finite (c : Config) {reg : RegIdx} {d : Word} (b : BlockState ℚ) (h : reg.toNat ≤ 6)
    (hd : f32Finite d = true) :
    realExec c (.wr reg d) b = some (realStore c reg d (f32Value d) b, 0#32) := by
  simp only [realExec, realWr_of_number h, realBitsToNum_of_finite hd, Option.map_some]

theorem realExec_wr_not_finite (c : Config) {reg : RegIdx} {d : Word} (b : BlockState ℚ)
    (h : reg.toNat ≤ 6) (hd : f32Finite d = false) : realExec c (.wr reg d) b = none := by
  simp only [realExec, realWr_of_number h, realBitsToNum_of_not_finite hd, Option.map_none]

theorem realExec_wr_raw (c : Config) {reg : RegIdx} (d : Word) (b : BlockState ℚ) (h : 6 < reg.toNat) :
    realExec c (.wr reg d) b = some (realStore c reg d 0 b, 0#32) := by
  simp only [realExec, realWr_of_raw h, Option.map_some]

/-- Settles O55: a finite datum, one that is not, a raw register, and the indices that hold none. -/
theorem realRegisterAccess : Obligations.RealRegisterAccess := by
  intro c b d
  refine ⟨fun hd => ⟨?_, ?_, fun hc => ?_, ?_⟩, fun hd reg hreg => realExec_wr_not_finite c b hreg hd,
    realExec_wr_raw c d b (by decide), rfl, fun reg h => ?_, fun reg h => ?_⟩
  · exact realExec_wr_finite c b (by decide) hd
  · rw [← f32OfRat_f32Value hd]
    rfl
  · rw [realExec_wr_finite c b (by decide) hd, ← legalDelayTarget_real hc]
    rfl
  · rw [realExec_wr_finite c b (by decide) hd, ← legalFbGain_real]
    rfl
  · have hreg := (readOnly_or_unmapped_iff reg).mp h
    rw [realExec_wr_raw c d b (by omega), realStore, writeRegisterAs_eq_none hreg]
    rfl
  · simp only [realExec, realRd, readRegisterAs_eq_none h]
    rfl

end Sys2Proof.Machine

namespace Sys2Proof.Machine

/-! ### `floor_nat` of a delay in range (40_numerics.md R82) -/

theorem f32Units_natLit {m : Nat} (h : m < 16777216) : f32Units (f32Lit m 1) = m * 2 ^ 149 := by
  simp [f32Units, f32Sign_lit, f32Magnitude_lit h]

/-- On a positive finite pattern `floor_nat` is the floor of its units over those of 1.0. -/
theorem f32FloorNat_of_pos {v : F32} (hf : f32Finite v = true) (h : 0 < f32Units v) :
    (f32FloorNat v : Int) = f32Units v / 2 ^ 149 := by
  cases hs : f32Sign v with
  | false => simp [f32FloorNat, f32Units, hf, hs]
  | true =>
    have hneg : f32Units v = -(f32Magnitude v : Int) := by simp [f32Units, hs]
    omega

/-- The integer part of a legal delay: the bounds D_LO and D_HI are whole numbers, so it keeps both. -/
theorem DelayInRange.floorNat {c : Config} (hc : c.legal = true) {v : F32} (h : DelayInRange c v) :
    2 ≤ f32FloorNat v ∧ f32FloorNat v ≤ c.n - 2 := by
  obtain ⟨_, _, _, hn, _⟩ := (Config.legal_iff c).mp hc
  obtain ⟨_, _, hlo⟩ := (f32Le_iff _ _).mp h.1
  obtain ⟨_, _, hhi⟩ := (f32Le_iff _ _).mp h.2
  have hlo : (2 : Int) * 2 ^ 149 ≤ f32Units v :=
    (f32Units_natLit (m := 2) (by decide)).symm.trans_le hlo
  have hhi : f32Units v ≤ (c.n - 2 : Nat) * 2 ^ 149 :=
    hhi.trans_eq (f32Units_natLit (by omega))
  have hfloor := f32FloorNat_of_pos (h.finite hc).1 (by omega)
  omega

/-! ### The addresses of the delay window (20_memory.md R42, 41_delay_line.md R104) -/

/-- The delays 1 to N behind one index have N different addresses. -/
theorem delayAddress_inj {n a j k : Int} (hj : 1 ≤ j) (hjn : j ≤ n) (hk : 1 ≤ k) (hkn : k ≤ n) :
    (a - j) % n = (a - k) % n ↔ j = k := by
  constructor
  · intro h
    have hdvd : n ∣ k - j := by
      have := Int.ModEq.dvd (n := n) h.symm
      rwa [sub_sub_sub_cancel_left] at this
    have hzero := Int.eq_zero_of_abs_lt_dvd hdvd (by rw [abs_lt]; omega)
    omega
  · rintro rfl
    rfl

/-- The word at delay 1 behind the advanced index is at the old one: the word that `dl_write` wrote. -/
theorem advanceIndex_sub_one {c : Config} (hc : c.legal = true) {w : Word} (h : w.toNat < c.n) :
    (((advanceIndex c w).toNat : Int) - 1) % c.n = w.toNat := by
  rw [advanceIndex_toNat hc, Int.natCast_mod, Int.emod_sub_emod]
  push_cast
  rw [add_sub_cancel_right]
  exact Int.emod_eq_of_lt (by omega) (by omega)

/-- A delay of 1 to N reads the word just written exactly when it is 1. -/
theorem delayAddress_eq_written_iff {c : Config} (hc : c.legal = true) {w : Word} (h : w.toNat < c.n)
    {k : Int} (hk : 1 ≤ k) (hkn : k ≤ c.n) :
    (((advanceIndex c w).toNat : Int) - k) % c.n = w.toNat ↔ k = 1 := by
  conv_lhs => rhs; rw [← advanceIndex_sub_one hc h]
  exact delayAddress_inj hk hkn le_rfl (by omega)

/-- A delay of 1 to N reads the oldest word, at the index itself, exactly when it is N. -/
theorem delayAddress_eq_self_iff {n a k : Int} (ha : 0 ≤ a) (han : a < n) (hk : 1 ≤ k) (hkn : k ≤ n) :
    (a - k) % n = a ↔ k = n := by
  have hself : (a - n) % n = a := by rw [Int.sub_emod_right, Int.emod_eq_of_lt ha han]
  conv_lhs => rhs; rw [← hself]
  exact delayAddress_inj hk hkn (by omega) le_rfl

/-- Settles O31: the new state is legal, which bounds i, and the four addresses are those of the delays
i - 1, i, i + 1 and i + 2, all from 1 to N. -/
theorem readGeometry : Obligations.ReadGeometry := by
  intro s hs
  have hc := hs.config
  obtain ⟨t, ht⟩ := exec_completes (i := .step) fun _ => hs.block.wrIdx
  obtain ⟨hcfg, _, _⟩ := exec_eq_next ht
  have hlegal : LegalBlock s.cfg t.toBlockState := hcfg ▸ (hs.exec ht).block
  have hidx : t.wrIdx = advanceIndex s.cfg s.wrIdx := by
    obtain ⟨_, hb⟩ := exec_blockAfter ht
    rw [hb, stepped_wrIdx]
  obtain ⟨hi, hin⟩ := DelayInRange.floorNat hc hlegal.curDelay
  have hwritten {k : Int} (hk : 1 ≤ k) (hkn : k ≤ s.cfg.n) :
      ((t.wrIdx.toNat : Int) - k) % s.cfg.n = s.wrIdx.toNat ↔ k = 1 :=
    hidx ▸ delayAddress_eq_written_iff hc hs.block.wrIdx hk hkn
  have hself {k : Int} (hk : 1 ≤ k) (hkn : k ≤ s.cfg.n) :
      ((t.wrIdx.toNat : Int) - k) % s.cfg.n = t.wrIdx.toNat ↔ k = s.cfg.n :=
    delayAddress_eq_self_iff (Int.natCast_nonneg _) (by exact_mod_cast hlegal.wrIdx) hk hkn
  refine ⟨t, ht, f32FloorNat t.curDelay, rfl, hi, hin, ?_⟩
  simp only [sub_add, sub_sub, ne_eq]
  refine ⟨?_, ?_, ?_, ?_, ?_⟩
  · rw [hwritten] <;> omega
  · rw [hwritten] <;> omega
  · rw [hwritten] <;> omega
  · rw [hwritten] <;> omega
  · rw [hself] <;> omega

end Sys2Proof.Machine

namespace Sys2Proof

/-! ### The fields of a command word (30_encoding.md R58)

A word is its three fields, and decoding reads a command off them: `decode` and `encode` meet in
`Instr.fields`. -/

/-- The laws of the seven commands, as one. -/
theorem fieldsOfWord (i : Instr) : Laws.FieldsOfWord.Statement i := by
  cases i with
  | nop => exact Laws.FieldsOfWord.nop
  | wr reg data => exact Laws.FieldsOfWord.wr reg data
  | rd reg => exact Laws.FieldsOfWord.rd reg
  | step => exact Laws.FieldsOfWord.step
  | route => exact Laws.FieldsOfWord.route
  | tick => exact Laws.FieldsOfWord.tick
  | init => exact Laws.FieldsOfWord.init

theorem splitWord_encode (i : Instr) : splitWord (encode i) = i.fields := (fieldsOfWord i).1

/-- The encoding admits every operand of every command. -/
theorem Instr.wellFormed (i : Instr) : WellFormed i = true := (fieldsOfWord i).2

/-- Joining undoes splitting. -/
theorem joinFields_splitWord (c : CmdWord) :
    joinFields (splitWord c).op (splitWord c).reg (splitWord c).data = c := by
  simp (disch := rfl) only [joinFields, splitWord, BitVec.extractLsb'_append_extractLsb'_eq_extractLsb']
  exact BitVec.extractLsb'_eq_self

theorem splitWord_injective : Function.Injective splitWord := fun c d h => by
  rw [← joinFields_splitWord c, h, joinFields_splitWord]

theorem joinFields_inj {op op' : BitVec 8} {reg reg' : RegIdx} {data data' : Word} :
    joinFields op reg data = joinFields op' reg' data' ↔ op = op' ∧ reg = reg' ∧ data = data' := by
  rw [← splitWord_injective.eq_iff, Laws.FieldsOfWord.split_join, Laws.FieldsOfWord.split_join,
    CommandFields.mk.injEq]

/-- The decoder's tests, one by one: a command comes out exactly of its own fields. -/
theorem decodeFields_eq_ok_iff (f : CommandFields) (i : Instr) :
    decodeFields f = .ok i ↔ f = i.fields := by
  constructor
  · obtain ⟨op, reg, data⟩ := f
    intro h
    unfold decodeFields at h
    split_ifs at h <;> cases h <;> simp_all [Instr.fields]
  · rintro rfl
    cases i <;> rfl

theorem decode_eq_ok_iff_fields (c : CmdWord) (i : Instr) : decode c = .ok i ↔ splitWord c = i.fields :=
  decodeFields_eq_ok_iff (splitWord c) i

/-- A word decodes to a command exactly when it is that command's word. -/
theorem decode_eq_ok_iff (c : CmdWord) (i : Instr) : decode c = .ok i ↔ c = encode i := by
  rw [decode_eq_ok_iff_fields, ← splitWord_encode, splitWord_injective.eq_iff]

@[simp] theorem decode_encode (i : Instr) : decode (encode i) = .ok i :=
  (decode_eq_ok_iff _ i).mpr rfl

/-! ### The six bytes of a command word (20_memory.md R43) -/

theorem wordOfBytes_bytesOfWord (c : CmdWord) (rest : List Byte) :
    wordOfBytes (bytesOfWord c ++ rest) = some (c, rest) := by
  have hc : c.extractLsb' 40 8 ++ c.extractLsb' 32 8 ++ c.extractLsb' 24 8 ++ c.extractLsb' 16 8 ++
      c.extractLsb' 8 8 ++ c.extractLsb' 0 8 = c := by
    simp (disch := rfl) only [BitVec.extractLsb'_append_extractLsb'_eq_extractLsb']
    exact BitVec.extractLsb'_eq_self
  simp [wordOfBytes, bytesOfWord, hc]

theorem decodeBytes_bytesOfWord {c : CmdWord} {i : Instr} (h : decode c = .ok i) (rest : List Byte) :
    decodeBytes (bytesOfWord c ++ rest) = .ok (i, rest) := by
  simp only [decodeBytes, wordOfBytes_bytesOfWord, h]

/-- Settles O1: the word by its fields, the bytes by putting the word together again. -/
theorem decodeEncodeRoundTrip : Obligations.DecodeEncodeRoundTrip := fun i rest _ =>
  ⟨decode_encode i, decodeBytes_bytesOfWord (decode_encode i) rest⟩

/-- Settles O2: a word has the fields of one command only. -/
theorem encodeDecodeRoundTrip : Obligations.EncodeDecodeRoundTrip := fun c i h =>
  ⟨((decode_eq_ok_iff c i).mp h).symm, i.wellFormed⟩

/-- Settles O5: the eight legal words are those of the encoder, and the five illegal ones are computed. -/
theorem sampleWordsDecode : Obligations.SampleWordsDecode :=
  ⟨decode_encode .nop, decode_encode (.wr 0x00#8 0x3F800000#32), decode_encode (.wr 0x08#8 0xFFFFFFFD#32),
    decode_encode (.rd 0x12#8), decode_encode .step, decode_encode .route, decode_encode .tick,
    decode_encode .init, by decide, by decide, by decide, by decide, by decide⟩

/-! ### The rows of the opcode map (30_encoding.md R60) -/

/-- A row whose mask has every bit is one word. -/
theorem fullMask_eq_encode_iff (c : CmdWord) (i : Instr) :
    c &&& 0xFFFFFFFFFFFF#48 = encode i ↔ decode c = .ok i := by
  have hmask : 0xFFFFFFFFFFFF#48 = BitVec.allOnes 48 := rfl
  rw [hmask, BitVec.and_allOnes, decode_eq_ok_iff]

/-- AND acts field by field. -/
theorem joinFields_and (op op' : BitVec 8) (reg reg' : RegIdx) (data data' : Word) :
    joinFields op reg data &&& joinFields op' reg' data' =
      joinFields (op &&& op') (reg &&& reg') (data &&& data') :=
  BitVec.and_append.trans (congrArg (· ++ (data &&& data')) BitVec.and_append)

/-- A row's test, field by field. -/
theorem and_joinFields_eq_iff (c : CmdWord) (maskOp op : BitVec 8) (maskReg reg : RegIdx)
    (maskData data : Word) :
    c &&& joinFields maskOp maskReg maskData = joinFields op reg data ↔
      (splitWord c).op &&& maskOp = op ∧ (splitWord c).reg &&& maskReg = reg ∧
        (splitWord c).data &&& maskData = data := by
  rw [← joinFields_inj, ← joinFields_and, joinFields_splitWord]

/-- The row of WR looks at the opcode alone. -/
theorem wrMask_eq_iff (c : CmdWord) :
    c &&& 0xFF0000000000#48 = 0x010000000000#48 ↔ ∃ reg data, decode c = .ok (.wr reg data) := by
  have hop (v : BitVec 8) : v &&& 0xFF#8 = v := BitVec.and_allOnes
  calc c &&& 0xFF0000000000#48 = 0x010000000000#48
      ↔ (splitWord c).op &&& 0xFF#8 = 0x01#8 ∧ (splitWord c).reg &&& 0#8 = 0#8 ∧
          (splitWord c).data &&& 0#32 = 0#32 :=
        and_joinFields_eq_iff c 0xFF#8 0x01#8 0#8 0#8 0#32 0#32
    _ ↔ (splitWord c).op = 0x01#8 := by simp [hop]
    _ ↔ ∃ reg data, decode c = .ok (.wr reg data) := by
      simp only [decode_eq_ok_iff_fields, Instr.fields]
      rcases splitWord c with ⟨op, reg, data⟩
      simp

/-- The row of RD looks at the opcode and the data, not at the index. -/
theorem rdMask_eq_iff (c : CmdWord) :
    c &&& 0xFF00FFFFFFFF#48 = 0x020000000000#48 ↔ ∃ reg, decode c = .ok (.rd reg) := by
  have hop (v : BitVec 8) : v &&& 0xFF#8 = v := BitVec.and_allOnes
  have hdata (v : Word) : v &&& 0xFFFFFFFF#32 = v := BitVec.and_allOnes
  calc c &&& 0xFF00FFFFFFFF#48 = 0x020000000000#48
      ↔ (splitWord c).op &&& 0xFF#8 = 0x02#8 ∧ (splitWord c).reg &&& 0#8 = 0#8 ∧
          (splitWord c).data &&& 0xFFFFFFFF#32 = 0#32 :=
        and_joinFields_eq_iff c 0xFF#8 0x02#8 0#8 0#8 0xFFFFFFFF#32 0#32
    _ ↔ (splitWord c).op = 0x02#8 ∧ (splitWord c).data = 0#32 := by simp [hop, hdata]
    _ ↔ ∃ reg, decode c = .ok (.rd reg) := by
      simp only [decode_eq_ok_iff_fields, Instr.fields]
      rcases splitWord c with ⟨op, reg, data⟩
      simp

/-- A command is one of the seven. -/
theorem Instr.exists_iff (P : Instr → Prop) :
    (∃ i, P i) ↔ P .nop ∨ (∃ reg data, P (.wr reg data)) ∨ (∃ reg, P (.rd reg)) ∨ P .step ∨ P .route ∨
      P .tick ∨ P .init := by
  constructor
  · rintro ⟨i, h⟩
    cases i with
    | nop => exact .inl h
    | wr reg data => exact .inr (.inl ⟨reg, data, h⟩)
    | rd reg => exact .inr (.inr (.inl ⟨reg, h⟩))
    | step => exact .inr (.inr (.inr (.inl h)))
    | route => exact .inr (.inr (.inr (.inr (.inl h))))
    | tick => exact .inr (.inr (.inr (.inr (.inr (.inl h)))))
    | init => exact .inr (.inr (.inr (.inr (.inr (.inr h)))))
  · rintro (h | ⟨_, _, h⟩ | ⟨_, h⟩ | h | h | h | h) <;> exact ⟨_, h⟩

/-- A word of some row of the table is a word of one of the seven masks and patterns. -/
theorem exists_row_accepts_iff (c : CmdWord) : (∃ row ∈ opcodeRows, row.accepts c = true) ↔
    c &&& 0xFFFFFFFFFFFF#48 = 0x000000000000#48 ∨ c &&& 0xFF0000000000#48 = 0x010000000000#48 ∨
    c &&& 0xFF00FFFFFFFF#48 = 0x020000000000#48 ∨ c &&& 0xFFFFFFFFFFFF#48 = 0x030000000000#48 ∨
    c &&& 0xFFFFFFFFFFFF#48 = 0x040000000000#48 ∨ c &&& 0xFFFFFFFFFFFF#48 = 0x050000000000#48 ∨
    c &&& 0xFFFFFFFFFFFF#48 = 0x060000000000#48 := by
  simp only [opcodeRows, OpcodeRow.accepts, List.exists_mem_cons_iff, List.not_mem_nil, false_and,
    exists_false, or_false, decide_eq_true_eq]

/-- Settles O3: five rows are one word each, WR leaves its operands free and RD its index, and
the commands of the seven rows are all there are. -/
theorem decodeFollowsOpcodeMap : Obligations.DecodeFollowsOpcodeMap := by
  intro c
  have hnop := fullMask_eq_encode_iff c .nop
  have hstep := fullMask_eq_encode_iff c .step
  have hroute := fullMask_eq_encode_iff c .route
  have htick := fullMask_eq_encode_iff c .tick
  have hinit := fullMask_eq_encode_iff c .init
  refine ⟨hnop, wrMask_eq_iff c, rdMask_eq_iff c, hstep, hroute, htick, hinit, ?_⟩
  rw [exists_row_accepts_iff, Instr.exists_iff, ← hnop, ← wrMask_eq_iff, ← rdMask_eq_iff, ← hstep,
    ← hroute, ← htick, ← hinit]
  rfl

/-! ### Illegal words (30_encoding.md R66) -/

theorem splitWord_op_toNat (c : CmdWord) : (splitWord c).op.toNat = c.toNat / 2 ^ 40 := by
  have := c.isLt
  simp only [splitWord, BitVec.extractLsb'_toNat, Nat.shiftRight_eq_div_pow]
  omega

theorem splitWord_reg_toNat (c : CmdWord) : (splitWord c).reg.toNat = c.toNat / 2 ^ 32 % 256 := by
  simp only [splitWord, BitVec.extractLsb'_toNat, Nat.shiftRight_eq_div_pow]

theorem splitWord_data_toNat (c : CmdWord) : (splitWord c).data.toNat = c.toNat % 2 ^ 32 := by
  simp [splitWord]

/-- R66's three conditions, negated, in the values of the fields. -/
theorem CommandFields.legal_iff (f : CommandFields) : f.legal = true ↔
    f.op.toNat ≤ 6 ∧ (f.op.toNat = 1 ∨ f.op.toNat = 2 ∨ f.reg.toNat = 0 ∧ f.data.toNat = 0) ∧
      (f.op.toNat = 2 → f.data.toNat = 0) := by
  simp [CommandFields.legal, CommandFields.opcodeDefined, CommandFields.formatZOperandsZero,
    CommandFields.formatRDataZero, BitVec.toNat_eq, and_assoc, or_assoc, imp_iff_not_or]

/-- Legal fields are those of a command. -/
theorem CommandFields.legal_iff_exists (f : CommandFields) : f.legal = true ↔ ∃ i : Instr, f = i.fields := by
  constructor
  · obtain ⟨op, reg, data⟩ := f
    simp only [CommandFields.legal_iff]
    rintro ⟨hop, hz, hr⟩
    obtain hwr | hrd | ⟨hreg, hdata⟩ := hz
    · obtain rfl : op = 1#8 := BitVec.eq_of_toNat_eq hwr
      exact ⟨.wr reg data, rfl⟩
    · obtain rfl : op = 2#8 := BitVec.eq_of_toNat_eq hrd
      obtain rfl : data = 0#32 := BitVec.eq_of_toNat_eq (hr hrd)
      exact ⟨.rd reg, rfl⟩
    · obtain rfl : reg = 0#8 := BitVec.eq_of_toNat_eq hreg
      obtain rfl : data = 0#32 := BitVec.eq_of_toNat_eq hdata
      obtain rfl | rfl | rfl | rfl | rfl | rfl | rfl : op = 0#8 ∨ op = 1#8 ∨ op = 2#8 ∨ op = 3#8 ∨
          op = 4#8 ∨ op = 5#8 ∨ op = 6#8 := by
        simp only [BitVec.toNat_eq, BitVec.toNat_ofNat]
        omega
      exacts [⟨.nop, rfl⟩, ⟨.wr 0#8 0#32, rfl⟩, ⟨.rd 0#8, rfl⟩, ⟨.step, rfl⟩, ⟨.route, rfl⟩, ⟨.tick, rfl⟩,
        ⟨.init, rfl⟩]
  · rintro ⟨i, rfl⟩
    exact i.wellFormed

/-- The decoder accepts exactly the words whose fields are legal. -/
theorem exists_decode_eq_ok_iff (c : CmdWord) : (∃ i, decode c = .ok i) ↔ (splitWord c).legal = true := by
  simp only [decode_eq_ok_iff_fields, CommandFields.legal_iff_exists]

theorem exists_decode_eq_error_iff (c : CmdWord) :
    (∃ why, decode c = .error why) ↔ ¬ (splitWord c).legal = true := by
  rw [← exists_decode_eq_ok_iff]
  cases decode c <;> simp

end Sys2Proof

namespace Sys2Proof.Machine

/-- A step of a legally configured block whose oldest event is an illegal word answers it. -/
theorem step_of_illegalWord {s : State} {c : CmdWord} {rest : List PortEvent} {why : IllegalWord}
    (hc : s.cfg.legal = true) (hp : s.port = .command c :: rest) (hd : decode c = .error why) :
    step s = .next (takeIllegalWord (s.withPort rest)) := by
  simp only [step, hc, if_true, runPort, hp, runEvent, runCommand, hd]

/-- Settles O4: the legality of the fields in numbers, the answer to an illegal word, and the words of WR
and RD. -/
theorem illegalWords : Obligations.IllegalWords := by
  refine ⟨fun c => ?_, fun s c rest why => step_of_illegalWord, fun reg data =>
    ⟨decode_encode (.wr reg data), decode_encode (.rd reg)⟩⟩
  rw [exists_decode_eq_error_iff, CommandFields.legal_iff, splitWord_op_toNat, splitWord_reg_toNat,
    splitWord_data_toNat]
  omega

/-! ### The word that `withFetchWord` presents -/

/-- The word that `withFetchWord` presents is the whole command word. -/
theorem State.withFetchWord_port (s : State) (c : CmdWord) :
    (s.withFetchWord 48 c.toNat).port = .command c :: s.port := by
  rw [State.withFetchWord, State.withPort_port, BitVec.toNat_mod_cancel, BitVec.ofNat_toNat,
    BitVec.setWidth_eq]

/-- Settles O6: both presentations put the word first at the port. -/
theorem stepRunsDecodedCommand : Obligations.StepRunsDecodedCommand := fun s c _ hc hd =>
  ⟨fun _ hp => step_of_command hc hp hd,
    step_of_command (s := s.withFetchWord 48 c.toNat) hc (s.withFetchWord_port c) hd⟩

/-! ### The response of a command (30_encoding.md R61) -/

/-- R61's table: what a command answers, from the state it is run in and the one it leaves. -/
def responseWord (i : Instr) (s t : State) : Word :=
  match i with
  | .nop => 0#32
  | .wr _ _ => 0#32
  | .rd reg => (readRegister s.toBlockState reg).getD 0#32
  | .step => t.yOut
  | .route => t.fb
  | .tick => t.yOut
  | .init => 0#32

theorem exec_rsp {i : Instr} {s t : State} (h : exec i s = .next t) :
    t.rsp = some (responseWord i s t) := by
  cases i with
  | nop => cases h; rfl
  | wr reg data =>
    cases hw : writeRegister s.cfg s.toBlockState reg data with
    | some b => cases (exec_wr_of_some hw).symm.trans h; rfl
    | none => cases (exec_wr_of_none hw).symm.trans h; rfl
  | rd reg =>
    cases hr : readRegister s.toBlockState reg with
    | some w => cases (exec_rd_of_some hr).symm.trans h; simp [responseWord, hr]
    | none => cases (exec_rd_of_none hr).symm.trans h; simp [responseWord, hr]
  | step =>
    obtain ⟨u, _, rfl⟩ := onNext_eq_next h
    rfl
  | route => cases h; rfl
  | tick =>
    obtain ⟨u, _, rfl⟩ := onNext_eq_next h
    simp [responseWord]
  | init => cases h; rfl

/-- Settles O9: the illegal word, and the seven rows of `responseWord`. -/
theorem responseTable : Obligations.ResponseTable := by
  intro s c rest hc hp hw
  cases hd : decode c with
  | error why => exact ⟨_, step_of_illegalWord hc hp hd, rfl, by simp [takeIllegalWord]⟩
  | ok i =>
    obtain ⟨t, ht⟩ := exec_completes (i := i) (s := s.withPort rest) fun _ => hw
    obtain ⟨_, hport, _⟩ := exec_eq_next ht
    have hrsp := exec_rsp ht
    refine ⟨t, (step_of_command hc hp hd).trans ht, hport, ?_⟩
    simp only [Except.ok.injEq, reduceCtorEq, false_implies, implies_true, and_true]
    refine ⟨?_, ?_, ?_, ?_, ?_, ?_, ?_, ?_⟩
    · rintro rfl; exact hrsp
    · rintro reg data rfl; exact hrsp
    · rintro rfl; exact hrsp
    · rintro reg w rfl hr
      simpa [responseWord, hr] using hrsp
    · rintro reg rfl hu
      simpa [responseWord, readRegister, readRegisterAs_eq_none hu] using hrsp
    · rintro rfl; exact hrsp
    · rintro rfl; exact hrsp
    · rintro rfl; exact hrsp

end Sys2Proof.Machine

namespace Sys2Proof.Machine

/-! ### The value of a pattern (40_numerics.md R75, R81) -/

/-- Bits 30:23 of a pattern are its exponent. -/
theorem f32Exponent_eq_extractLsb' (b : F32) : f32Exponent b = (b.extractLsb' 23 8).toNat := by
  rw [BitVec.extractLsb'_toNat, Nat.shiftRight_eq_div_pow]
  rfl

/-- Bit 31 of a pattern is its sign. -/
theorem f32Sign_eq_getLsbD (b : F32) : f32Sign b = b.getLsbD 31 :=
  (BitVec.msb_eq_decide b).symm.trans (BitVec.msb_eq_getLsbD_last b)

theorem f32Value_mul_pow (a : F32) : f32Value a * 2 ^ 149 = f32Units a := by
  rw [f32Value, div_mul_cancel₀ _ (by positivity)]

theorem f32Value_posZero : f32Value 0x00000000#32 = 0 := by
  rw [f32Value, show f32Units 0x00000000#32 = 0 from rfl, Int.cast_zero, zero_div]

/-- A value is its sign times its magnitude. -/
theorem f32Value_eq (b : F32) :
    f32Value b = (if f32Sign b then -1 else 1) * ((f32Magnitude b : ℚ) / 2 ^ 149) := by
  unfold f32Value f32Units
  cases f32Sign b <;> simp [neg_div]

/-- The magnitude of a normal pattern: 2^(e - 127) (1 + m / 2^23). -/
theorem f32Magnitude_of_normal {b : F32} (h : 1 ≤ f32Exponent b) :
    (f32Magnitude b : ℚ) / 2 ^ 149 =
      2 ^ ((f32Exponent b : ℤ) - 127) * (1 + (f32Fraction b : ℚ) / 2 ^ 23) := by
  obtain ⟨e, he⟩ : ∃ e, f32Exponent b = e + 1 := ⟨f32Exponent b - 1, by omega⟩
  have hpow : (2 : ℚ) ^ (((e + 1 : ℕ) : ℤ) - 127) = 2 ^ e / 2 ^ 126 := by
    rw [show ((e + 1 : ℕ) : ℤ) - 127 = (e : ℤ) - (126 : ℕ) by push_cast; ring,
      zpow_sub₀ two_ne_zero, zpow_natCast, zpow_natCast]
  have hmag : f32Magnitude b = (8388608 + f32Fraction b) * 2 ^ e := by simp [f32Magnitude, he]
  rw [he, hpow, hmag]
  push_cast
  ring

/-- The magnitude of a subnormal pattern: 2^-126 (m / 2^23). -/
theorem f32Magnitude_of_subnormal {b : F32} (h : f32Exponent b = 0) :
    (f32Magnitude b : ℚ) / 2 ^ 149 = 2 ^ (-126 : ℤ) * ((f32Fraction b : ℚ) / 2 ^ 23) := by
  have hmag : f32Magnitude b = f32Fraction b := if_pos h
  rw [hmag, zpow_neg, show (126 : ℤ) = (126 : ℕ) from rfl, zpow_natCast]
  ring

/-- Settles O43: the value is the sign times the magnitude, and the magnitude is R75's by the exponent. -/
theorem numberFormat : Obligations.NumberFormat := by
  intro b
  rw [← f32Sign_eq_getLsbD, f32Value_eq]
  refine ⟨fun h _ => ?_, fun h => ?_, f32Exponent_eq_extractLsb' b⟩
  · rw [f32Magnitude_of_normal h, ← mul_assoc]
    rfl
  · rw [f32Magnitude_of_subnormal h, ← mul_assoc]
    rfl

/-- The two infinities. -/
theorem f32IsInf_iff (v : F32) : f32IsInf v = true ↔ v = 0x7F800000#32 ∨ v = 0xFF800000#32 := by
  have := v.isLt
  rw [f32IsInf, Bool.and_eq_true, decide_eq_true_iff, decide_eq_true_iff, f32Exponent, f32Fraction,
    ← BitVec.toNat_inj, ← BitVec.toNat_inj]
  simp only [BitVec.toNat_ofNat]
  omega

/-- Settles O47: the exponent is bits 30:23, and a pattern is finite, an infinity or a NaN. -/
theorem finiteTest : Obligations.FiniteTest := by
  intro k v
  rw [f32Num_finite]
  constructor
  · rw [f32Finite, f32Exponent_eq_extractLsb', decide_eq_true_iff, ne_eq, ne_eq, ← BitVec.toNat_inj]
    rfl
  · rw [← not_or, ← f32IsInf_iff]
    rcases f32_class v with h | h | h <;> simp [h]

/-! ### The comparisons (40_numerics.md R80) -/

theorem f32Lt_of_numbers {a b : F32} (ha : f32IsNaN a = false) (hb : f32IsNaN b = false) :
    f32Lt a b = decide (f32Units a < f32Units b) := by
  simp [f32Lt, f32Ordered, ha, hb]

theorem f32Le_of_numbers {a b : F32} (ha : f32IsNaN a = false) (hb : f32IsNaN b = false) :
    f32Le a b = decide (f32Units a ≤ f32Units b) := by
  simp [f32Le, f32Ordered, ha, hb]

theorem f32Eq_of_numbers {a b : F32} (ha : f32IsNaN a = false) (hb : f32IsNaN b = false) :
    f32Eq a b = decide (f32Units a = f32Units b) := by
  simp [f32Eq, f32Ordered, ha, hb]

theorem f32Ordered_of_nan {a b : F32} (h : f32IsNaN a = true ∨ f32IsNaN b = true) :
    f32Ordered a b = false := by
  rcases h with h | h <;> simp [f32Ordered, h]

theorem f32Value_lt_iff (a b : F32) : f32Value a < f32Value b ↔ f32Units a < f32Units b := by
  rw [f32Value, f32Value, div_lt_div_iff_of_pos_right (by positivity), Int.cast_lt]

theorem f32Value_le_iff (a b : F32) : f32Value a ≤ f32Value b ↔ f32Units a ≤ f32Units b := by
  rw [← not_lt, f32Value_lt_iff, not_lt]

theorem f32Value_inj (a b : F32) : f32Value a = f32Value b ↔ f32Units a = f32Units b := by
  rw [le_antisymm_iff, f32Value_le_iff, f32Value_le_iff, le_antisymm_iff]

/-- A finite value lies strictly between the two infinities. -/
theorem f32Units_between_infinities {a : F32} (h : f32Finite a = true) :
    f32Units 0xFF800000#32 < f32Units a ∧ f32Units a < f32Units 0x7F800000#32 := by
  have hmag : f32Magnitude a < f32Magnitude 0x7F800000#32 := by
    rw [f32Magnitude_eq 0x7F800000#32]
    exact (f32Finite_iff_magnitude a).mp h
  have hneg : f32Units 0xFF800000#32 = -(f32Magnitude 0x7F800000#32 : Int) := by
    rw [show 0xFF800000#32 = f32Neg 0x7F800000#32 from rfl, f32Units_neg]
    rfl
  have hpos : f32Units 0x7F800000#32 = (f32Magnitude 0x7F800000#32 : Int) := rfl
  have habs := natAbs_f32Units a
  omega

/-- Settles O46: a comparison of numbers is the comparison of their units, and those of a finite value
lie between the infinities'. -/
theorem comparisons : Obligations.Comparisons := by
  intro a b
  refine ⟨fun h => ?_, fun ha hb => ?_, fun ha => ?_, fun ha => ?_, by decide +kernel⟩
  · simp [f32Lt, f32Le, f32Eq, f32Ordered_of_nan h]
  · have han := f32IsNaN_of_finite ha
    have hbn := f32IsNaN_of_finite hb
    rw [f32Lt_of_numbers han hbn, f32Le_of_numbers han hbn, f32Eq_of_numbers han hbn,
      f32Value_lt_iff, f32Value_le_iff, f32Value_inj]
    simp only [decide_eq_true_eq, iff_self, and_self]
  · have han := f32IsNaN_of_finite ha
    have hpn : f32IsNaN 0x7F800000#32 = false := rfl
    have hnn : f32IsNaN 0xFF800000#32 = false := rfl
    obtain ⟨hlo, hhi⟩ := f32Units_between_infinities ha
    simp only [f32Lt_of_numbers, f32Le_of_numbers, f32Eq_of_numbers, han, hpn, hnn, hlo, hhi, hlo.le, hhi.le,
      hlo.not_gt, hhi.not_gt, hlo.not_ge, hhi.not_ge, hlo.ne, hlo.ne', hhi.ne, hhi.ne', decide_true,
      decide_false, and_self]
  · rcases (f32IsInf_iff a).mp ha with rfl | rfl <;> decide +kernel

/-! ### The special operands (40_numerics.md R79) -/

theorem f32IsNaN_of_isInf {a : F32} (h : f32IsInf a = true) : f32IsNaN a = false := by
  rcases (f32IsInf_iff a).mp h with rfl | rfl <;> rfl

theorem f32IsZero_of_isInf {a : F32} (h : f32IsInf a = true) : f32IsZero a = false := by
  rcases (f32IsInf_iff a).mp h with rfl | rfl <;> rfl

theorem f32Finite_of_isZero {a : F32} (h : f32IsZero a = true) : f32Finite a = true := by
  simp_all [f32IsZero, f32Finite]

theorem f32IsZero_iff_magnitude (a : F32) : f32IsZero a = true ↔ f32Magnitude a = 0 := by
  rw [f32Magnitude]
  split <;> simp_all [f32IsZero]

theorem f32Magnitude_pos {a : F32} (h : f32IsZero a = false) : 0 < f32Magnitude a :=
  Nat.pos_of_ne_zero fun hm => by simp [(f32IsZero_iff_magnitude a).mpr hm] at h

theorem f32Units_eq_zero_iff (a : F32) : f32Units a = 0 ↔ f32IsZero a = true := by
  rw [f32IsZero_iff_magnitude, ← natAbs_f32Units, Int.natAbs_eq_zero]

/-- Where there is no number a primitive answers a quiet NaN. -/
theorem orNaN_none_isQuiet (k : Nat) (op : PrimOp) (a b : F32) : IsQuietNaN (orNaN k op a b none) := by
  rcases orNaN_cases k op a b none with h | ⟨_, _, h⟩
  · exact h.1
  · cases h

theorem f32Sum_of_inf_left {a b : F32} (ha : f32IsInf a = true) (hb : f32IsInf b = false) :
    f32Sum a b = some a := by
  simp [f32Sum, ha, hb]

theorem f32Sum_of_inf_right {a b : F32} (ha : f32IsInf a = false) (hb : f32IsInf b = true) :
    f32Sum a b = some b := by
  simp [f32Sum, ha, hb]

theorem f32Sum_of_opposite_infs {a b : F32} (ha : f32IsInf a = true) (hb : f32IsInf b = true)
    (h : f32Sign a ≠ f32Sign b) : f32Sum a b = none := by
  simp [f32Sum, ha, hb, h]

theorem f32Product_of_zero_inf {a b : F32} (ha : f32IsZero a = true) (hb : f32IsInf b = true) :
    f32Product a b = none ∧ f32Product b a = none := by
  simp [f32Product, ha, hb]

theorem f32Product_of_inf {a b : F32} (h : f32IsInf a = true ∨ f32IsInf b = true)
    (ha : f32IsZero a = false) (hb : f32IsZero b = false) :
    f32Product a b = some (f32Inf (f32Sign a != f32Sign b)) := by
  simp [f32Product, h, ha, hb]

theorem f32Quotient_of_infs {a b : F32} (ha : f32IsInf a = true) (hb : f32IsInf b = true) :
    f32Quotient a b = none := by
  simp [f32Quotient, ha, hb]

theorem f32Quotient_of_inf_left {a b : F32} (ha : f32IsInf a = true) (hb : f32IsInf b = false) :
    f32Quotient a b = some (f32Inf (f32Sign a != f32Sign b)) := by
  simp [f32Quotient, ha, hb]

theorem f32Quotient_of_inf_right {a b : F32} (ha : f32IsInf a = false) (hb : f32IsInf b = true) :
    f32Quotient a b = some (f32Pack (f32Sign a != f32Sign b) 0) := by
  simp [f32Quotient, ha, hb]

theorem f32Quotient_by_zero {a b : F32} (ha : f32Finite a = true) (hb : f32IsZero b = true) :
    f32Quotient a b = if f32IsZero a then none else some (f32Inf (f32Sign a != f32Sign b)) := by
  simp [f32Quotient, f32IsInf_of_finite ha, f32IsInf_of_finite (f32Finite_of_isZero hb), hb]

/-- A finite pattern is the rounding of its own magnitude, with its sign. -/
theorem f32Pack_roundUnits_magnitude {a : F32} (h : f32Finite a = true) :
    f32Pack (f32Sign a) (roundUnits (f32Magnitude a) 1) = a := by
  have hround := roundUnits_exact Nat.one_pos ((f32Finite_iff_low a).mp h)
  rw [Nat.mul_one, ← f32Magnitude_eq] at hround
  rw [hround, f32Pack_fields]

/-- A sum with a zero is the other operand, unless that is a zero too. -/
theorem f32AddFinite_zero {a b : F32} (ha : f32Finite a = true) (ha0 : f32IsZero a = false)
    (hb : f32IsZero b = true) : f32AddFinite a b = a := by
  have hne : f32Units a ≠ 0 := fun h => by simp [(f32Units_eq_zero_iff a).mp h] at ha0
  have hsum : f32Units a + f32Units b = f32Units a := by rw [(f32Units_eq_zero_iff b).mpr hb, add_zero]
  have hsign : decide (f32Units a < 0) = f32Sign a := by
    rw [Bool.eq_iff_iff, decide_eq_true_iff]
    exact f32Units_neg_iff (by rintro rfl; cases ha0)
  rw [f32AddFinite_eq a b (hsum.symm ▸ hne), hsum, hsign, natAbs_f32Units, f32Pack_roundUnits_magnitude ha]

/-- An exact sum of opposites is +0.0. -/
theorem f32AddFinite_neg (a : F32) : f32AddFinite a (f32Neg a) = 0x00000000#32 := by
  simp only [f32AddFinite, f32Units_neg, add_neg_cancel, if_true, f32Sign_neg, Bool.and_not_self]
  rfl

theorem f32Mul_zero_left {k : Nat} {a b : F32} (ha : f32IsZero a = true) (hb : f32Finite b = true) :
    f32Mul k a b = f32Pack (f32Sign a != f32Sign b) 0 := by
  rw [f32Mul_finite (f32Finite_of_isZero ha) hb, (f32IsZero_iff_magnitude a).mp ha, Nat.zero_mul,
    roundUnits_zero (Nat.two_pow_pos 149)]

theorem f32Mul_zero_right {k : Nat} {a b : F32} (ha : f32Finite a = true) (hb : f32IsZero b = true) :
    f32Mul k a b = f32Pack (f32Sign a != f32Sign b) 0 := by
  rw [f32Mul_finite ha (f32Finite_of_isZero hb), (f32IsZero_iff_magnitude b).mp hb, Nat.mul_zero,
    roundUnits_zero (Nat.two_pow_pos 149)]

theorem f32Div_zero_left {k : Nat} {a b : F32} (ha : f32IsZero a = true) (hb : f32Finite b = true)
    (hb0 : f32IsZero b = false) : f32Div k a b = f32Pack (f32Sign a != f32Sign b) 0 := by
  rw [f32Div_finite (f32Finite_of_isZero ha) hb hb0, (f32IsZero_iff_magnitude a).mp ha, Nat.zero_mul,
    roundUnits_zero (f32Magnitude_pos hb0)]

/-- Settles O45: row by row of R79's table, what the sum, product or quotient of the operands' classes is. -/
theorem specialOperands : Obligations.SpecialOperands := by
  intro k a b
  refine ⟨fun h => ⟨orNaN_of_nan h, orNaN_of_nan h, orNaN_of_nan h, orNaN_of_nan h⟩, ?infInf, ?zeroInf,
    ?zeroZero, ?infFinite, ?infNonzero, ?byZero, ?opposites, ?zeroFinite, ?posNegZero, ?negNegZero⟩
  case infInf =>
    intro ha hb
    refine ⟨fun hs => ?_, fun hs => ?_, ?_⟩
    · rw [f32Add, f32Sum_of_opposite_infs ha hb hs]
      exact orNaN_none_isQuiet _ _ _ _
    · rw [f32Sub, f32Sum_of_opposite_infs ha (by simpa using hb) (by simp [hs])]
      exact orNaN_none_isQuiet _ _ _ _
    · rw [f32Div, f32Quotient_of_infs ha hb]
      exact orNaN_none_isQuiet _ _ _ _
  case zeroInf =>
    intro ha hb
    obtain ⟨hab, hba⟩ := f32Product_of_zero_inf ha hb
    rw [f32Mul, f32Mul, hab, hba]
    exact ⟨orNaN_none_isQuiet _ _ _ _, orNaN_none_isQuiet _ _ _ _⟩
  case zeroZero =>
    intro ha hb
    rw [f32Div, f32Quotient_by_zero (f32Finite_of_isZero ha) hb, if_pos ha]
    exact orNaN_none_isQuiet _ _ _ _
  case infFinite =>
    intro ha hb
    have han := f32IsNaN_of_isInf ha
    have hbn := f32IsNaN_of_finite hb
    have hbi := f32IsInf_of_finite hb
    have hai' : f32IsInf (f32Neg a) = true := by simpa using ha
    have hbi' : f32IsInf (f32Neg b) = false := by simpa using hbi
    rw [f32Add, f32Add, f32Sub, f32Sub, f32Div, f32Div, f32Sum_of_inf_left ha hbi,
      f32Sum_of_inf_right hbi ha, f32Sum_of_inf_left ha hbi', f32Sum_of_inf_right hbi hai',
      f32Quotient_of_inf_left ha hbi, f32Quotient_of_inf_right hbi ha]
    simp only [orNaN_of_some, han, hbn, and_self]
  case infNonzero =>
    intro ha hbn hb0
    have han := f32IsNaN_of_isInf ha
    have ha0 := f32IsZero_of_isInf ha
    rw [f32Mul, f32Mul, f32Product_of_inf (.inl ha) ha0 hb0, f32Product_of_inf (.inr ha) hb0 ha0]
    exact ⟨orNaN_of_some han hbn, orNaN_of_some hbn han⟩
  case byZero =>
    intro ha ha0 hb
    have hbf := f32Finite_of_isZero hb
    rw [f32Div, f32Quotient_by_zero ha hb, ha0, f32Add_finite ha hbf]
    exact ⟨orNaN_of_some (f32IsNaN_of_finite ha) (f32IsNaN_of_finite hbf), f32AddFinite_zero ha ha0 hb⟩
  case opposites =>
    intro ha _
    rw [f32Add_finite ha (by simpa using ha), f32AddFinite_neg]
  case zeroFinite =>
    exact fun ha hb => ⟨f32Mul_zero_left ha hb, f32Mul_zero_right hb ha, f32Div_zero_left ha hb⟩
  case posNegZero => rw [f32Add_finite rfl rfl]; rfl
  case negNegZero => rw [f32Add_finite rfl rfl]; rfl

/-! ### The nearest binary32 to a rational (40_numerics.md R78)

`f32OfRat` rounds a rational once, so it is the one rounding that every primitive is held to: a result of
a primitive has the units of `f32OfRat` at the exact result. -/

/-- A quotient is rounded by its value, not by how it is written. -/
theorem roundSigned_congr {s s' : Int} {d d' : Nat} (hd : 0 < d) (hd' : 0 < d') (h : s * d' = s' * d) :
    roundSigned s d = roundSigned s' d' :=
  le_antisymm (roundSigned_mono hd hd' h.le) (roundSigned_mono hd' hd h.ge)

theorem f32Units_ofRat_num (q : ℚ) : f32Units (f32OfRat q) = roundSigned (q.num * 2 ^ 149) q.den := by
  have habs : (q.num * 2 ^ 149).natAbs = q.num.natAbs * 2 ^ 149 := Int.natAbs_mul _ _
  have hneg : q.num * 2 ^ 149 < 0 ↔ q.num < 0 := by omega
  rw [← f32Units_pack_roundUnits, habs, f32OfRat]
  simp only [hneg]

/-- The nearest binary32 to a number of units written as any quotient. -/
theorem f32Units_ofRat {q : ℚ} {s : Int} {d : Nat} (hd : 0 < d) (h : q * 2 ^ 149 * d = s) :
    f32Units (f32OfRat q) = roundSigned s d := by
  have hcross : (q.num * 2 ^ 149 : ℚ) * d = s * q.den := by
    rw [← h, ← Rat.mul_den_eq_num]
    ring
  rw [f32Units_ofRat_num]
  exact roundSigned_congr q.den_pos hd (by exact_mod_cast hcross)

theorem f32Units_ofRat_mono {p q : ℚ} (h : p ≤ q) : f32Units (f32OfRat p) ≤ f32Units (f32OfRat q) := by
  rw [f32Units_ofRat_num, f32Units_ofRat_num]
  refine roundSigned_mono p.den_pos q.den_pos ?_
  have hcross := (Rat.le_iff p q).mp h
  nlinarith

theorem f32Units_ofRat_neg (q : ℚ) : f32Units (f32OfRat (-q)) = -f32Units (f32OfRat q) := by
  rw [f32Units_ofRat_num, f32Units_ofRat_num, Rat.num_neg_eq_neg_num, Rat.den_neg_eq_den, neg_mul,
    roundSigned_neg _ q.den_pos]

/-- What is representable is not changed. -/
theorem f32Units_ofRat_f32Value {v : F32} (h : f32Finite v = true) :
    f32Units (f32OfRat (f32Value v)) = f32Units v := by
  have hs : f32Value v * 2 ^ 149 * (1 : ℕ) = (f32Units v * (1 : ℕ) : ℤ) := by
    push_cast
    rw [mul_one, mul_one, f32Value_mul_pow]
  rw [f32Units_ofRat Nat.one_pos hs, roundSigned_f32Units h Nat.one_pos]

/-- A quotient of finite operands, as units: the exact quotient rounded once (40_numerics.md R78). -/
theorem f32Units_div {k : Nat} {a b : F32} (ha : f32Finite a = true) (hb : f32Finite b = true)
    (hb0 : f32IsZero b = false) :
    f32Units (f32Div k a b) = roundSigned (f32Units a * (f32Units b).sign * 2 ^ 149) (f32Magnitude b) := by
  have hpos := f32Magnitude_pos hb0
  have hr := roundSigned_natCast (f32Magnitude a * 2 ^ 149) (f32Magnitude b)
  have hn := roundSigned_neg ((f32Magnitude a * 2 ^ 149 : Nat) : Int) hpos
  have hsign : (f32Magnitude b : Int).sign = 1 := Int.sign_eq_one_of_pos (by exact_mod_cast hpos)
  rw [f32Div_finite ha hb hb0, f32Units_pack _ (roundUnits_lt _ _), ← hr]
  push_cast at hn ⊢
  cases hsa : f32Sign a <;> cases hsb : f32Sign b <;> simp [f32Units, hsa, hsb, hsign, hn]

/-- The primitives are one rounding: each answers, in units, the binary32 nearest to its exact result. -/
theorem PrimitiveResult.units {q : ℚ} {r : F32} (h : PrimitiveResult q r) :
    f32Units r = f32Units (f32OfRat q) := by
  cases h with
  | add k a b ha hb =>
    rw [f32Add_finite ha hb, f32Units_addFinite, f32Units_ofRat Nat.one_pos]
    push_cast
    rw [mul_one, add_mul, f32Value_mul_pow, f32Value_mul_pow]
  | sub k a b ha hb =>
    rw [f32Sub_finite ha hb, f32Units_addFinite, f32Units_ofRat Nat.one_pos]
    push_cast
    rw [mul_one, sub_mul, f32Value_mul_pow, f32Value_mul_pow, f32Units_neg, Int.cast_neg, sub_eq_add_neg]
  | mul k a b ha hb =>
    rw [f32Units_mul ha hb, f32Units_ofRat (Nat.two_pow_pos 149)]
    push_cast
    rw [← f32Value_mul_pow a, ← f32Value_mul_pow b]
    ring
  | div k a b ha hb hb0 =>
    have hzero : f32IsZero b = false := by
      rw [Bool.eq_false_iff, ne_eq, ← f32Units_eq_zero_iff]
      exact fun h0 => hb0 (by rw [f32Value, h0]; simp)
    have habs : (f32Magnitude b : ℚ) = f32Value b * 2 ^ 149 * (f32Units b).sign := by
      rw [f32Value_mul_pow, ← natAbs_f32Units, ← Int.cast_natCast, ← Int.mul_sign_self, Int.cast_mul]
    rw [f32Units_div ha hb hzero, f32Units_ofRat (f32Magnitude_pos hzero)]
    push_cast
    rw [habs, ← f32Value_mul_pow a]
    field_simp
    ring

/-- What has the units of a rounded rational has its low bits: rounded, a pattern is never a NaN. -/
theorem low_of_units_ofRat {q : ℚ} {r : F32} (h : f32Units r = f32Units (f32OfRat q)) :
    r.toNat % 2147483648 = roundUnits (q.num.natAbs * 2 ^ 149) q.den := by
  have hmag : f32Magnitude r = f32Magnitude (f32OfRat q) := by
    rw [← natAbs_f32Units, h, natAbs_f32Units]
  rw [f32OfRat, f32Magnitude_pack _ (roundUnits_lt _ _), f32Magnitude_eq] at hmag
  exact lowUnits_strictMono.injective hmag

theorem PrimitiveResult.isNumber {q : ℚ} {r : F32} (h : PrimitiveResult q r) : f32IsNaN r = false := by
  rw [f32IsNaN_eq_false_iff_low, low_of_units_ofRat h.units]
  exact roundUnits_le _ _

/-- Settles O50: the primitives answer as `f32OfRat` does, which is monotone, odd and the identity on
representable values. -/
theorem roundingIsMonotone : Obligations.RoundingIsMonotone := by
  refine ⟨fun p q r s hr hs hpq => ?_, fun p r s hr hs => ?_, fun r v hv hr => ?_⟩
  · rw [f32Le_of_numbers hr.isNumber hs.isNumber, decide_eq_true_iff, hr.units, hs.units]
    exact f32Units_ofRat_mono hpq
  · have hn : f32IsNaN (f32Neg r) = false := by simpa using hr.isNumber
    rw [f32Eq_of_numbers hs.isNumber hn, decide_eq_true_iff, hs.units, f32Units_neg, hr.units]
    exact f32Units_ofRat_neg p
  · rw [f32Eq_of_numbers hr.isNumber (f32IsNaN_of_finite hv), decide_eq_true_iff, hr.units]
    exact f32Units_ofRat_f32Value hv

/-! ### To nearest, ties to even

The rounding law `lt_roundUnits` compares with the midpoint of neighbours, so the rounded pattern lies on
its side of the midpoint with every other pattern, and is even where the exact value is that midpoint. -/

/-- A lesser pattern is no nearer: the exact value is not below its midpoint with the rounded one. -/
theorem midpoint_le_of_lt_roundUnits {p d low : Nat} (hd : 0 < d) (h : low < roundUnits p d) :
    (lowUnits low + lowUnits (roundUnits p d)) * d ≤ 2 * p ∧
    ((lowUnits low + lowUnits (roundUnits p d)) * d = 2 * p → roundUnits p d % 2 = 0) := by
  have hle := roundUnits_le p d
  obtain ⟨j, hj⟩ : ∃ j, roundUnits p d = j + 1 := ⟨roundUnits p d - 1, by omega⟩
  have hlaw := (lt_roundUnits (p := p) (low := j) hd (by omega)).mp (by omega)
  rw [hj] at h ⊢
  have hmono : (lowUnits low + lowUnits (j + 1)) * d ≤ (lowUnits j + lowUnits (j + 1)) * d :=
    Nat.mul_le_mul_right d (Nat.add_le_add_right (lowUnits_strictMono.monotone (by omega)) _)
  omega

/-- A greater pattern is no nearer: the exact value is not above its midpoint with the rounded one. -/
theorem le_midpoint_of_roundUnits_lt {p d low : Nat} (hd : 0 < d) (hr : roundUnits p d < 0x7F800000)
    (h : roundUnits p d < low) :
    2 * p ≤ (lowUnits (roundUnits p d) + lowUnits low) * d ∧
    ((lowUnits (roundUnits p d) + lowUnits low) * d = 2 * p → roundUnits p d % 2 = 0) := by
  have hlaw := mt (lt_roundUnits (p := p) hd hr).mpr (lt_irrefl _)
  have hmono : (lowUnits (roundUnits p d) + lowUnits (roundUnits p d + 1)) * d ≤
      (lowUnits (roundUnits p d) + lowUnits low) * d :=
    Nat.mul_le_mul_right d (Nat.add_le_add_left (lowUnits_strictMono.monotone h) _)
  omega

/-- Rounding reaches the infinity exactly from the overflow threshold of R78 on. -/
theorem roundUnits_eq_infinity_iff {p d : Nat} (hd : 0 < d) :
    roundUnits p d = 0x7F800000 ↔ 33554431 * 2 ^ 253 * d ≤ 2 * p := by
  have hle := roundUnits_le p d
  have hmid : lowUnits 0x7F7FFFFF + lowUnits (0x7F7FFFFF + 1) = 33554431 * 2 ^ 253 := by decide +kernel
  have hlaw := lt_roundUnits (p := p) (low := 0x7F7FFFFF) hd (by decide)
  rw [hmid] at hlaw
  omega

theorem abs_f32Value (a : F32) : |f32Value a| = (lowUnits (a.toNat % 2147483648) : ℚ) / 2 ^ 149 := by
  rw [f32Value, abs_div, abs_of_pos (show (0 : ℚ) < 2 ^ 149 by positivity), ← Int.cast_abs,
    Int.abs_eq_natAbs, natAbs_f32Units, f32Magnitude_eq, Int.cast_natCast]

/-- The magnitude of a rational in units, as the quotient that `f32OfRat` rounds. -/
theorem abs_units (q : ℚ) : |q| * 2 ^ 149 * q.den = (q.num.natAbs * 2 ^ 149 : ℕ) := by
  have hden : (0 : ℚ) < q.den := by exact_mod_cast q.den_pos
  have habs : |q| * q.den = (q.num.natAbs : ℕ) := by
    rw [← abs_of_pos hden, ← abs_mul, Rat.mul_den_eq_num, ← Int.cast_abs, Int.abs_eq_natAbs,
      Int.cast_natCast]
  push_cast
  rw [← habs]
  ring

/-- The overflow threshold of R78 is the midpoint past the largest finite value. -/
theorem overflowThreshold_le_abs_iff (q : ℚ) :
    overflowThreshold ≤ |q| ↔ roundUnits (q.num.natAbs * 2 ^ 149) q.den = 0x7F800000 := by
  have hden : (0 : ℚ) < q.den := by exact_mod_cast q.den_pos
  have hthreshold : overflowThreshold * (2 ^ 150 * q.den) = (33554431 * 2 ^ 253 * q.den : ℕ) := by
    rw [overflowThreshold]
    push_cast
    ring
  have habs : |q| * (2 ^ 150 * q.den) = (2 * (q.num.natAbs * 2 ^ 149) : ℕ) := by
    rw [Nat.cast_mul, ← abs_units, Nat.cast_ofNat]
    ring
  rw [roundUnits_eq_infinity_iff q.den_pos,
    ← mul_le_mul_iff_left₀ (show 0 < 2 ^ 150 * (q.den : ℚ) by positivity), hthreshold, habs, Nat.cast_le]

/-- Patterns of equal units are equal, but for the two zeros. -/
theorem f32_eq_of_units {a b : F32} (h : f32Units a = f32Units b) (h0 : f32Units a ≠ 0) : a = b := by
  have hlow : a.toNat % 2147483648 = b.toNat % 2147483648 := by
    apply lowUnits_strictMono.injective
    rw [← f32Magnitude_eq, ← f32Magnitude_eq, ← natAbs_f32Units, ← natAbs_f32Units, h]
  have hsign : f32Sign a = f32Sign b := by
    rw [Bool.eq_iff_iff, ← f32Units_neg_iff (d := a) (by rintro rfl; exact h0 rfl),
      ← f32Units_neg_iff (d := b) (by rintro rfl; exact h0 h), h]
  rw [← f32Pack_fields a, hlow, hsign, f32Pack_fields]

/-- Of two values, that on the side of `z` of their midpoint is as near to it, and nearer off the
midpoint. -/
theorem abs_sub_le_of_midpoint_le {x y z : ℚ} (hxy : x < y) (h : x + y ≤ 2 * z) :
    |y - z| ≤ |x - z| ∧ (|y - z| = |x - z| → x + y = 2 * z) := by
  rw [abs_of_nonpos (show x - z ≤ 0 by linarith)]
  constructor
  · rw [abs_le]
    constructor <;> linarith
  · intro he
    rcases abs_choice (y - z) with hc | hc <;> linarith

theorem abs_sub_le_of_le_midpoint {x y z : ℚ} (hxy : y < x) (h : 2 * z ≤ x + y) :
    |y - z| ≤ |x - z| ∧ (|y - z| = |x - z| → x + y = 2 * z) := by
  have hneg := abs_sub_le_of_midpoint_le (neg_lt_neg hxy) (show -x + -y ≤ 2 * -z by linarith)
  rw [neg_sub_neg, neg_sub_neg, abs_sub_comm z, abs_sub_comm z] at hneg
  exact ⟨hneg.1, fun he => by linarith [hneg.2 he]⟩

theorem midpoint_mul (a b : F32) (d : Nat) : (|f32Value a| + |f32Value b|) * (2 ^ 149 * d) =
    ((lowUnits (a.toNat % 2147483648) + lowUnits (b.toNat % 2147483648)) * d : ℕ) := by
  rw [abs_f32Value, abs_f32Value]
  push_cast
  field_simp

theorem two_abs_mul (q : ℚ) : 2 * |q| * (2 ^ 149 * q.den) = (2 * (q.num.natAbs * 2 ^ 149) : ℕ) := by
  rw [Nat.cast_mul, ← abs_units, Nat.cast_ofNat]
  ring

/-- The midpoint of two magnitudes against that of a rational, in units. -/
theorem midpoint_le_abs_iff (a b : F32) (q : ℚ) : |f32Value a| + |f32Value b| ≤ 2 * |q| ↔
    (lowUnits (a.toNat % 2147483648) + lowUnits (b.toNat % 2147483648)) * q.den ≤
      2 * (q.num.natAbs * 2 ^ 149) := by
  have hscale : (0 : ℚ) < 2 ^ 149 * q.den := mul_pos (by positivity) (by exact_mod_cast q.den_pos)
  rw [← mul_le_mul_iff_left₀ hscale, midpoint_mul, two_abs_mul, Nat.cast_le]

theorem abs_le_midpoint_iff (a b : F32) (q : ℚ) : 2 * |q| ≤ |f32Value a| + |f32Value b| ↔
    2 * (q.num.natAbs * 2 ^ 149) ≤
      (lowUnits (a.toNat % 2147483648) + lowUnits (b.toNat % 2147483648)) * q.den := by
  have hscale : (0 : ℚ) < 2 ^ 149 * q.den := mul_pos (by positivity) (by exact_mod_cast q.den_pos)
  rw [← mul_le_mul_iff_left₀ hscale, midpoint_mul, two_abs_mul, Nat.cast_le]

theorem midpoint_eq_abs_iff (a b : F32) (q : ℚ) : |f32Value a| + |f32Value b| = 2 * |q| ↔
    (lowUnits (a.toNat % 2147483648) + lowUnits (b.toNat % 2147483648)) * q.den =
      2 * (q.num.natAbs * 2 ^ 149) := by
  rw [le_antisymm_iff, midpoint_le_abs_iff, abs_le_midpoint_iff, ← le_antisymm_iff]

theorem abs_f32Value_lt {a b : F32} (h : a.toNat % 2147483648 < b.toNat % 2147483648) :
    |f32Value a| < |f32Value b| := by
  rw [abs_f32Value, abs_f32Value, div_lt_div_iff_of_pos_right (by positivity), Nat.cast_lt]
  exact lowUnits_strictMono h

theorem f32Fraction_mod_two (a : F32) : f32Fraction a % 2 = a.toNat % 2147483648 % 2 := by
  rw [f32Fraction]
  omega

section rounded

variable {q : ℚ} {r : F32}

/-- Among the magnitudes of patterns the rounded one is nearest to that of the exact value, and even where
another is as near. -/
theorem magnitude_nearest (h : f32Units r = f32Units (f32OfRat q)) (hr : f32Finite r = true) (v : F32) :
    |(|f32Value r| - |q|)| ≤ |(|f32Value v| - |q|)| ∧
    (|(|f32Value r| - |q|)| = |(|f32Value v| - |q|)| → |f32Value v| ≠ |f32Value r| →
      f32Fraction r % 2 = 0) := by
  have hlow := low_of_units_ofRat h
  rcases lt_trichotomy (v.toNat % 2147483648) (r.toNat % 2147483648) with hv | hv | hv
  · obtain ⟨hle, heven⟩ := midpoint_le_of_lt_roundUnits q.den_pos (hlow ▸ hv)
    rw [← hlow] at hle heven
    obtain ⟨hnear, htie⟩ :=
      abs_sub_le_of_midpoint_le (abs_f32Value_lt hv) ((midpoint_le_abs_iff v r q).mpr hle)
    exact ⟨hnear, fun he _ =>
      (f32Fraction_mod_two r).trans (heven ((midpoint_eq_abs_iff v r q).mp (htie he)))⟩
  · have heq : |f32Value v| = |f32Value r| := by rw [abs_f32Value, abs_f32Value, hv]
    exact ⟨by rw [heq], fun _ hne => absurd heq hne⟩
  · obtain ⟨hle, heven⟩ := le_midpoint_of_roundUnits_lt q.den_pos
      (hlow ▸ (f32Finite_iff_low r).mp hr) (hlow ▸ hv)
    rw [← hlow, Nat.add_comm (lowUnits (r.toNat % 2147483648))] at hle heven
    obtain ⟨hnear, htie⟩ :=
      abs_sub_le_of_le_midpoint (abs_f32Value_lt hv) ((abs_le_midpoint_iff v r q).mpr hle)
    exact ⟨hnear, fun he _ =>
      (f32Fraction_mod_two r).trans (heven ((midpoint_eq_abs_iff v r q).mp (htie he)))⟩

/-- The rounded value is on the exact value's side of zero. -/
theorem rounded_same_side (h : f32Units r = f32Units (f32OfRat q)) :
    (0 ≤ q ∧ 0 ≤ f32Value r) ∨ (q ≤ 0 ∧ f32Value r ≤ 0) := by
  have hzero : f32Units (f32OfRat 0) = f32Units 0x00000000#32 := rfl
  rw [← f32Value_posZero, f32Value_le_iff, f32Value_le_iff, h, ← hzero, f32Value_posZero]
  rcases le_total 0 q with hq | hq
  · exact .inl ⟨hq, f32Units_ofRat_mono hq⟩
  · exact .inr ⟨hq, f32Units_ofRat_mono hq⟩

/-- So the distance to the exact value is that of the magnitudes. -/
theorem rounded_distance (h : f32Units r = f32Units (f32OfRat q)) :
    |f32Value r - q| = |(|f32Value r| - |q|)| := by
  rcases rounded_same_side h with ⟨hq, hr⟩ | ⟨hq, hr⟩
  · rw [abs_of_nonneg hq, abs_of_nonneg hr]
  · rw [abs_of_nonpos hq, abs_of_nonpos hr, neg_sub_neg, abs_sub_comm]

theorem rounded_nearest (h : f32Units r = f32Units (f32OfRat q)) (hr : f32Finite r = true) (v : F32) :
    |f32Value r - q| ≤ |f32Value v - q| := by
  rw [rounded_distance h]
  exact (magnitude_nearest h hr v).1.trans (abs_abs_sub_abs_le _ _)

/-- The value across zero is not as near as the rounded one, but for zero itself: zero is nearer. -/
theorem rounded_eq_zero_of_opposite (h : f32Units r = f32Units (f32OfRat q)) (hr : f32Finite r = true)
    (he : |f32Value r - q| = |-f32Value r - q|) : f32Value r = 0 := by
  have hzero := rounded_nearest h hr 0x00000000#32
  rw [he, f32Value_posZero, zero_sub, abs_neg] at hzero
  rcases rounded_same_side h with ⟨hq, hr0⟩ | ⟨hq, hr0⟩
  · rw [abs_of_nonpos (by linarith), abs_of_nonneg hq] at hzero
    linarith
  · rw [abs_of_nonneg (by linarith), abs_of_nonpos hq] at hzero
    linarith

theorem rounded_even (h : f32Units r = f32Units (f32OfRat q)) (hr : f32Finite r = true) {v : F32}
    (he : |f32Value r - q| = |f32Value v - q|) (hne : f32Value v ≠ f32Value r) : f32Fraction r % 2 = 0 := by
  obtain ⟨hnear, heven⟩ := magnitude_nearest h hr v
  have hcross := abs_abs_sub_abs_le (f32Value v) q
  rw [rounded_distance h] at he
  refine heven (by linarith) fun habs => hne ?_
  rcases abs_eq_abs.mp habs with hv | hv
  · exact hv
  · rw [hv, ← rounded_distance h] at he
    rw [hv, rounded_eq_zero_of_opposite h hr he, neg_zero]

/-- From the threshold on, the infinity of the exact value's sign. -/
theorem rounded_overflow (h : f32Units r = f32Units (f32OfRat q)) (ho : overflowThreshold ≤ |q|) :
    r = f32Inf (decide (q < 0)) := by
  have hpat : f32OfRat q = f32Inf (decide (q < 0)) := by
    rw [f32OfRat, (overflowThreshold_le_abs_iff q).mp ho, f32Inf]
    simp only [Rat.num_neg]
  have hne : f32Units (f32OfRat q) ≠ 0 := by
    rw [hpat, ne_eq, f32Units_eq_zero_iff]
    cases decide (q < 0) <;> exact Bool.false_ne_true
  exact (f32_eq_of_units h.symm hne).symm.trans hpat

/-- What has the units of `f32OfRat` is the exact value rounded as R78 says, which mentions no algorithm. -/
theorem roundsTo_of_units_ofRat (h : f32Units r = f32Units (f32OfRat q)) : RoundsTo q r := by
  have hfin (hq : |q| < overflowThreshold) : f32Finite r = true := by
    have hne := mt (overflowThreshold_le_abs_iff q).mpr (not_le.mpr hq)
    have hle := roundUnits_le (q.num.natAbs * 2 ^ 149) q.den
    rw [f32Finite_iff_low, low_of_units_ofRat h]
    omega
  exact {
    overflow := rounded_overflow h
    finite := hfin
    nearest := fun hq v _ => rounded_nearest h (hfin hq) v
    even := fun hq _ _ he hne => rounded_even h (hfin hq) he hne }

end rounded

/-- Negation changes bit 31 alone. -/
theorem f32Neg_eq_xor (a : F32) : f32Neg a = a ^^^ 0x80000000#32 := by
  have hlow : (a.toNat ^^^ 2 ^ 31) % 2 ^ 31 = a.toNat % 2 ^ 31 := by
    rw [Nat.xor_mod_two_pow, Nat.mod_self, Nat.xor_zero]
  have hhigh : (a.toNat ^^^ 2 ^ 31) / 2 ^ 31 = a.toNat / 2 ^ 31 ^^^ 1 := by
    rw [Nat.xor_div_two_pow, Nat.div_self (Nat.two_pow_pos 31)]
  have ha := a.isLt
  apply BitVec.eq_of_toNat_eq
  rw [f32Neg, f32Pack_toNat _ (f32Low_lt a), BitVec.toNat_xor, f32Sign]
  change _ = a.toNat ^^^ 2 ^ 31
  generalize a.toNat ^^^ 2 ^ 31 = x at hlow hhigh ⊢
  by_cases hs : 2147483648 ≤ a.toNat
  · rw [show a.toNat / 2 ^ 31 = 1 by omega, Nat.xor_self] at hhigh
    simp only [hs, decide_true, Bool.not_true, Bool.false_eq_true, if_false]
    omega
  · rw [show a.toNat / 2 ^ 31 = 0 by omega, Nat.zero_xor] at hhigh
    simp only [hs, decide_false, Bool.not_false, if_true]
    omega

/-- Settles O44: every result of a primitive has the units of `f32OfRat` at the exact result, and that
rounds as R78 says. -/
theorem primitivesRoundOnce : Obligations.PrimitivesRoundOnce := by
  have hround {q : ℚ} {r : F32} (h : PrimitiveResult q r) : RoundsTo q r := roundsTo_of_units_ofRat h.units
  refine ⟨fun k a b ha hb => ⟨?_, ?_, ?_, fun hb0 => ?_⟩, f32Neg_eq_xor⟩
  · exact hround (.add k a b ha hb)
  · exact hround (.sub k a b ha hb)
  · exact hround (.mul k a b ha hb)
  · exact hround (.div k a b ha hb hb0)

/-! ### Literals that are exact, and the fractional part (40_numerics.md R82, R83) -/

/-- A fraction that is the value of a pattern is its own literal. -/
theorem f32Lit_exact {p q low : Nat} (hq : 0 < q) (hl : low < 0x7F800000)
    (h : p * 2 ^ 149 = lowUnits low * q) :
    f32Finite (f32Lit p q) = true ∧ f32Value (f32Lit p q) = (p : ℚ) / q := by
  have hlit : f32Lit p q = f32Pack false low := by rw [f32Lit, h, roundUnits_exact hq hl]
  have hl' : low < 2147483648 := by omega
  have hq' : (q : ℚ) ≠ 0 := by exact_mod_cast hq.ne'
  have hr : (p : ℚ) * 2 ^ 149 = lowUnits low * q := by exact_mod_cast h
  rw [hlit, f32Finite_iff_magnitude, f32Magnitude_pack _ hl', lowUnits_strictMono.lt_iff_lt, f32Value,
    f32Units_pack _ hl']
  refine ⟨hl, ?_⟩
  simp only [Bool.false_eq_true, if_false, Int.cast_natCast]
  rw [div_eq_div_iff (by positivity) hq', hr]

/-- `of_nat` is exact up to 2^24. -/
theorem f32Lit_whole_exact {m : Nat} (h : m ≤ 2 ^ 24) :
    f32Finite (f32Lit m 1) = true ∧ f32Value (f32Lit m 1) = m := by
  obtain ⟨low, hlow, hl⟩ : ∃ low, lowUnits low = m * 2 ^ 149 ∧ low ≤ 150 * 8388608 + 16777215 := by
    rcases h.lt_or_eq with hm | rfl
    · obtain ⟨low, hlow, hl⟩ := exists_lowUnits_eq 149 m hm
      exact ⟨low, hlow, by omega⟩
    · obtain ⟨low, hlow, hl⟩ := exists_lowUnits_eq 150 (2 ^ 23) (by decide)
      exact ⟨low, hlow, hl⟩
  have hexact := f32Lit_exact Nat.one_pos (show low < 0x7F800000 by omega) (by rw [hlow, Nat.mul_one])
  rwa [Nat.cast_one, div_one] at hexact

/-- Settles O49: `m / 2^24` is a whole number of 24 bits scaled by a power of two. -/
theorem frac24Exact : Obligations.Frac24Exact := by
  intro k m hm
  obtain ⟨low, hlow, hl⟩ := exists_lowUnits_eq 125 m hm
  obtain ⟨hfin, hvalue⟩ := f32Lit_exact (p := m) (q := 16777216) (by decide)
    (show low < 0x7F800000 by omega) (by rw [hlow]; ring)
  have hvalue : f32Value (f32Lit m 16777216) = (m : ℚ) / 2 ^ 24 := by
    rw [hvalue]
    norm_num
  have hm' : (m : ℚ) < 2 ^ 24 := by exact_mod_cast hm
  rw [f32Num_frac24, hvalue]
  exact ⟨hfin, rfl, by positivity, (div_lt_one (by positivity)).mpr hm'⟩

theorem f32Value_of_unsigned {v : F32} (hs : f32Sign v = false) :
    f32Value v = (f32Magnitude v : ℚ) / 2 ^ 149 := by
  simp [f32Value_eq, hs]

theorem f32FloorNat_of_unsigned {v : F32} (hf : f32Finite v = true) (hs : f32Sign v = false) :
    f32FloorNat v = f32Magnitude v / 2 ^ 149 := by
  simp [f32FloorNat, hf, hs]

/-- What is left of a magnitude above its whole part is a magnitude: the significand loses its leading
bits and keeps its place. -/
theorem exists_lowUnits_eq_mod (low : Nat) :
    ∃ low', lowUnits low' = lowUnits low % 2 ^ 149 ∧ low' < 0x7F800000 := by
  obtain ⟨s, m, rfl, hm, hs⟩ := exists_shift low
  rw [lowUnits_shift s m hm hs]
  rcases le_total 149 s with h | h
  · refine ⟨0, ?_, by decide⟩
    rw [Nat.mod_eq_zero_of_dvd (dvd_mul_of_dvd_right (pow_dvd_pow 2 h) m)]
    rfl
  · obtain ⟨low', hlow, hl⟩ := exists_lowUnits_eq s (m % 2 ^ (149 - s)) ((Nat.mod_le _ _).trans_lt hm)
    refine ⟨low', ?_, by omega⟩
    rw [hlow, ← Nat.mul_mod_mul_right, ← pow_add, Nat.sub_add_cancel h]

/-- The fractional part of an unsigned value is the value of a finite pattern. -/
theorem exists_f32Value_eq_fract {v : F32} (hf : f32Finite v = true) (hs : f32Sign v = false) :
    ∃ w, f32Finite w = true ∧ f32Value w = f32Value v - f32FloorNat v := by
  obtain ⟨low, hlow, hl⟩ := exists_lowUnits_eq_mod (v.toNat % 2147483648)
  rw [← f32Magnitude_eq] at hlow
  have hl' : low < 2147483648 := by omega
  have hsplit : (f32Magnitude v : ℚ) = 2 ^ 149 * (f32Magnitude v / 2 ^ 149 : ℕ) + lowUnits low := by
    rw [hlow]
    exact_mod_cast (Nat.div_add_mod (f32Magnitude v) (2 ^ 149)).symm
  refine ⟨f32Pack false low, ?_, ?_⟩
  · rw [f32Finite_iff_magnitude, f32Magnitude_pack _ hl']
    exact lowUnits_strictMono hl
  · rw [f32Value_of_unsigned hs, f32Value_of_unsigned (f32Sign_pack _ hl'), f32Magnitude_pack _ hl',
      f32FloorNat_of_unsigned hf hs, hsplit]
    field_simp
    ring

/-- `floor_nat` is the floor. -/
theorem f32FloorNat_bounds {v : F32} (hf : f32Finite v = true) (hs : f32Sign v = false) :
    (f32FloorNat v : ℚ) ≤ f32Value v ∧ f32Value v < f32FloorNat v + 1 := by
  have hpos : (0 : ℚ) < 2 ^ 149 := by positivity
  rw [f32FloorNat_of_unsigned hf hs, f32Value_of_unsigned hs, le_div_iff₀ hpos, div_lt_iff₀ hpos]
  constructor
  · exact_mod_cast Nat.div_mul_le_self (f32Magnitude v) (2 ^ 149)
  · exact_mod_cast Nat.lt_mul_of_div_lt (Nat.lt_succ_self (f32Magnitude v / 2 ^ 149)) (Nat.two_pow_pos 149)

/-- Settles O48: the exact difference `v - floor_nat(v)` is representable, so rounding it changes nothing. -/
theorem floorAndFraction : Obligations.FloorAndFraction := by
  constructor
  · exact fun _ _ hm => (f32Lit_whole_exact hm).symm
  · intro k v hf hs hlt
    obtain ⟨hle, hlt'⟩ := f32FloorNat_bounds hf hs
    have hfloor : f32FloorNat v ≤ 2 ^ 24 := by exact_mod_cast hle.trans hlt.le
    obtain ⟨hnf, hnv⟩ := f32Lit_whole_exact hfloor
    obtain ⟨w, hwf, hwv⟩ := exists_f32Value_eq_fract hf hs
    have hsub := (PrimitiveResult.sub k v (f32Lit (f32FloorNat v) 1) hf hnf).units
    rw [hnv, ← hwv, f32Units_ofRat_f32Value hwf] at hsub
    simp only [f32Num_floorNat, f32Num_ofNat, f32Num_fsub]
    exact ⟨hle, hlt', ((f32Value_inj _ _).mpr hsub).trans hwv⟩

end Sys2Proof.Machine

namespace Sys2Proof.Machine

/-! ### The delay window of a STEP (41_delay_line.md R101, R104) -/

/-- What a STEP leaves in DL: the driven sample at the old index, every other word as it was. -/
theorem delayWord_stepped {s : State} (hs : LegalBlock s.cfg s.toBlockState) (a : Nat) :
    delayWord (stepped (drawsFrom s) s.cfg s.toBlockState) a =
      if a = s.wrIdx.toNat then drivenSample (f32Num (s.draws + 1)) s.toBlockState
      else delayWord s.toBlockState a := by
  rw [delayWord, stepped_dl]
  split
  next h => exact h ▸ Memory.read_write_same _ _ hs.memory
  next h => exact Memory.read_write_other _ h

/-- One sample later a word stands one delay further back. -/
theorem advanceIndex_sub_succ {c : Config} (hc : c.legal = true) (w : Word) (k : Int) :
    (((advanceIndex c w).toNat : Int) - (k + 1)) % c.n = ((w.toNat : Int) - k) % c.n := by
  rw [advanceIndex_toNat hc, Int.natCast_mod, Int.emod_sub_emod]
  push_cast
  rw [add_sub_add_right_eq_sub]

/-- Settles O30: of the delays 1 to N behind the advanced index only delay 1 is the word written, and the
word behind at delay k + 1 is the one that stood at delay k of the old index. -/
theorem delayWindowShifts : Obligations.DelayWindowShifts := by
  intro s hs
  have hc := hs.config
  have hidx := hs.block.wrIdx
  obtain ⟨t, ht⟩ := exec_completes (i := .step) fun _ => hidx
  obtain ⟨_, hb⟩ := exec_blockAfter ht
  refine ⟨t, ht, ?_, fun k hk hkn => ?_, ?_⟩ <;> simp only [delayedSample, hb, stepped_wrIdx]
  · rw [Nat.cast_one, advanceIndex_sub_one hc hidx, delayWord_stepped hs.block]
    exact if_pos rfl
  · have hother : ((advanceIndex s.cfg s.wrIdx).toNat - (k + 1 : Int)) % s.cfg.n ≠ s.wrIdx.toNat := by
      rw [Ne, delayAddress_eq_written_iff hc hidx] <;> omega
    rw [advanceIndex_sub_succ hc] at hother
    rw [Nat.cast_succ, advanceIndex_sub_succ hc, delayWord_stepped hs.block]
    have hnonneg := Int.emod_nonneg ((s.wrIdx.toNat : Int) - k) (show (s.cfg.n : Int) ≠ 0 by omega)
    exact if_neg (by omega)
  · rw [Int.sub_emod_right, Nat.cast_zero, sub_zero]

/-! ### The slew (41_delay_line.md R103) -/

/-- What lies between two values lies between them in the order they have. -/
theorem InRange.ordered {a b v : F32} (hab : f32Le a b = true) (h : InRange a b v ∨ InRange b a v) :
    InRange a b v := by
  rcases h with h | h
  · exact h
  · exact ⟨f32Le_trans hab h.1, f32Le_trans h.2 hab⟩

theorem f32Le_of_lt {a b : F32} (h : f32Lt a b = true) : f32Le a b = true := by
  obtain ⟨ha, hb, hlt⟩ := (f32Lt_iff a b).mp h
  exact (f32Le_iff a b).mpr ⟨ha, hb, hlt.le⟩

/-- A legal delay is positive, so no other pattern denotes its value. -/
theorem DelayInRange.eq_of_inRange {c : Config} {cur v : F32} (hcur : DelayInRange c cur)
    (hv : InRange cur cur v) : v = cur := by
  obtain ⟨_, _, hlo⟩ := (f32Le_iff _ _).mp hcur.1
  obtain ⟨_, _, hge⟩ := (f32Le_iff _ _).mp hv.1
  obtain ⟨_, _, hle⟩ := (f32Le_iff _ _).mp hv.2
  have hpos : 0 < f32Units (dLo builtNum) := by decide +kernel
  exact f32_eq_of_units (by omega) (by omega)

/-- Settles O40: `slew_between` in the order of the two delays; when they are one, it leaves one pattern. -/
theorem slewNeverOvershoots : Obligations.SlewNeverOvershoots := by
  intro k c cur tgt hc hcur htgt
  obtain ⟨hk, hk0, hk1⟩ := kSlew_bounds hc k
  have hbetween {a b : F32} (ha : DelayInRange c a) (hb : DelayInRange c b) :=
    slew_between k hk hk0 hk1 (ha.finite hc).1 (hb.finite hc).1 (ha.finite hc).2 (hb.finite hc).2
  refine ⟨fun h => InRange.ordered h (hbetween hcur htgt),
    fun h => InRange.ordered (f32Le_of_lt h) (hbetween hcur htgt).symm, ?_⟩
  exact DelayInRange.eq_of_inRange hcur ((hbetween hcur hcur).elim id id)

/-- With a coefficient below 1 the exact step does not pass the target, so neither guard acts. -/
theorem slew_real {k cur tgt : ℚ} (h1 : k < 1) :
    slew realNum k cur tgt = cur + k * (tgt - cur) := by
  simp only [slew, realNum, decide_eq_true_eq]
  by_cases h : cur ≤ tgt
  · have hguard : ¬ tgt < cur + k * (tgt - cur) := by nlinarith
    rw [if_pos h, if_neg hguard]
  · have hguard : ¬ cur + k * (tgt - cur) < tgt := by nlinarith
    rw [if_neg h, if_neg hguard]

/-- Settles O56: no guard acts, and the rest is the arithmetic of `cur + k (tgt - cur)`. -/
theorem realSlewGeometric : Obligations.RealSlewGeometric := by
  intro k cur tgt h0 h1
  rw [slew_real h1]
  refine ⟨rfl, by ring, fun h => ⟨?_, ?_⟩, fun h => ⟨?_, ?_⟩⟩ <;> nlinarith

/-! ### Whole-number bounds through the primitives (40_numerics.md R78)

Whole numbers up to 2^24 are representable, so rounding an exact result once does not carry it past one. -/

/-- A finite pattern of magnitude at most `m`. -/
def AtMost (m : Nat) (v : F32) : Prop := f32Finite v = true ∧ |f32Value v| ≤ m

theorem AtMost.of_inRange {lo hi v : F32} {m : Nat} (h : InRange lo hi v) (hlo : AtMost m lo)
    (hhi : AtMost m hi) : AtMost m v := by
  obtain ⟨_, _, h1⟩ := (f32Le_iff _ _).mp h.1
  obtain ⟨_, _, h2⟩ := (f32Le_iff _ _).mp h.2
  have hlower := (abs_le.mp hlo.2).1.trans ((f32Value_le_iff _ _).mpr h1)
  have hupper := ((f32Value_le_iff _ _).mpr h2).trans (abs_le.mp hhi.2).2
  exact ⟨h.finite hlo.1 hhi.1, abs_le.mpr ⟨hlower, hupper⟩⟩

theorem AtMost.zero (m : Nat) : AtMost m 0x00000000#32 :=
  ⟨rfl, by simp [f32Value_posZero]⟩

theorem AtMost.one : AtMost 1 0x3F800000#32 := by
  obtain ⟨hfin, hvalue⟩ := f32Lit_whole_exact (m := 1) (by decide)
  have hlit : f32Lit 1 1 = 0x3F800000#32 := by decide +kernel
  rw [hlit] at hfin hvalue
  exact ⟨hfin, by simp [hvalue]⟩

theorem f32Value_neg (a : F32) : f32Value (f32Neg a) = -f32Value a := by
  simp [f32Value, neg_div]

theorem AtMost.neg {m : Nat} {v : F32} (h : AtMost m v) : AtMost m (f32Neg v) :=
  ⟨by simpa using h.1, by simpa [f32Value_neg] using h.2⟩

theorem Within.atMost_one {v : F32} (h : Within 0x3F800000#32 v) : AtMost 1 v :=
  AtMost.of_inRange h AtMost.one.neg AtMost.one

/-- A primitive whose exact result is at most `m` answers at most `m`. -/
theorem PrimitiveResult.atMost {q : ℚ} {r : F32} {m : Nat} (h : PrimitiveResult q r) (hm : m ≤ 2 ^ 24)
    (hq : |q| ≤ m) : AtMost m r := by
  obtain ⟨hfin, hvalue⟩ := f32Lit_whole_exact hm
  have hunits := f32Units_ofRat_f32Value hfin
  rw [hvalue] at hunits
  have hupper := f32Units_ofRat_mono (abs_le.mp hq).2
  have hlower := f32Units_ofRat_mono (abs_le.mp hq).1
  rw [f32Units_ofRat_neg] at hlower
  rw [← h.units, hunits] at hlower hupper
  have hvup := (f32Value_le_iff _ _).mpr hupper
  have hvlow := (f32Value_le_iff (f32Neg (f32Lit m 1)) r).mpr (by simpa using hlower)
  rw [f32Value_neg, hvalue] at hvlow
  rw [hvalue] at hvup
  exact ⟨f32Finite_of_natAbs_le (by omega) hfin, abs_le.mpr ⟨hvlow, hvup⟩⟩

section AtMost

variable {k m n : Nat} {a b : F32} (ha : AtMost m a) (hb : AtMost n b)
include ha hb

theorem AtMost.add (h : m + n ≤ 2 ^ 24) : AtMost (m + n) (f32Add k a b) := by
  refine (PrimitiveResult.add k a b ha.1 hb.1).atMost h ?_
  push_cast
  exact (abs_add_le _ _).trans (add_le_add ha.2 hb.2)

theorem AtMost.sub (h : m + n ≤ 2 ^ 24) : AtMost (m + n) (f32Sub k a b) := by
  refine (PrimitiveResult.sub k a b ha.1 hb.1).atMost h ?_
  push_cast
  exact (abs_sub _ _).trans (add_le_add ha.2 hb.2)

theorem AtMost.mul (h : m * n ≤ 2 ^ 24) : AtMost (m * n) (f32Mul k a b) := by
  refine (PrimitiveResult.mul k a b ha.1 hb.1).atMost h ?_
  push_cast
  rw [abs_mul]
  exact mul_le_mul ha.2 hb.2 (abs_nonneg _) (Nat.cast_nonneg m)

end AtMost

/-! ### The interpolator (41_delay_line.md R106, R108, R109) -/

/-- The factor of `f` in the outer step of `hermite`: `((a f - b) f) + c` (R106). -/
def hermiteSlope (k : Nat) (xm1 x0 x1 x2 f : F32) : F32 :=
  let c := f32Mul k (f32Sub k x1 xm1) 0x3F000000#32
  let v := f32Sub k x0 x1
  let w := f32Add k c v
  let a := f32Add k (f32Add k w v) (f32Mul k (f32Sub k x2 x0) 0x3F000000#32)
  f32Add k (f32Mul k (f32Sub k (f32Mul k a f) (f32Add k w a)) f) c

theorem hermite_f32 (k : Nat) (xm1 x0 x1 x2 f : F32) :
    hermite (f32Num k) xm1 x0 x1 x2 f = f32Add k (f32Mul k (hermiteSlope k xm1 x0 x1 x2 f) f) x0 := by
  have hhalf : f32Lit 1 2 = 0x3F000000#32 := by decide +kernel
  rw [hermiteSlope, ← hhalf]
  rfl

/-- The sums and products of R106, each with the bound of its operands: whatever the rounding, the slope is
far below overflow. -/
theorem hermiteSlope_atMost (k : Nat) {xm1 x0 x1 x2 f : F32} (hm1 : AtMost 1 xm1) (h0 : AtMost 1 x0)
    (h1 : AtMost 1 x1) (h2 : AtMost 1 x2) (hf : AtMost 1 f) :
    AtMost 22 (hermiteSlope k xm1 x0 x1 x2 f) := by
  have hhalf : AtMost 1 0x3F000000#32 := Within.atMost_one (by unfold Within InRange; decide +kernel)
  have hc := (h1.sub hm1 (k := k) (by decide)).mul hhalf (k := k) (by decide)
  have hv := h0.sub h1 (k := k) (by decide)
  have hw := hc.add hv (k := k) (by decide)
  have hs := (h2.sub h0 (k := k) (by decide)).mul hhalf (k := k) (by decide)
  have ha := (hw.add hv (k := k) (by decide)).add hs (k := k) (by decide)
  have hb := hw.add ha (k := k) (by decide)
  have hd := (ha.mul hf (k := k) (by decide)).sub hb (k := k) (by decide)
  exact (hd.mul hf (by decide)).add hc (by decide)

theorem f32AddFinite_comm (a b : F32) : f32AddFinite a b = f32AddFinite b a := by
  simp only [f32AddFinite, add_comm (f32Units a), Bool.and_comm (f32Sign a)]

/-- A zero added on the left changes no value. -/
theorem f32Eq_zero_add {k : Nat} {z x : F32} (hz : f32IsZero z = true) (hx : f32Finite x = true) :
    f32Eq (f32Add k z x) x = true := by
  rw [f32Add_finite (f32Finite_of_isZero hz) hx,
    f32Eq_of_numbers (f32IsNaN_addFinite z x) (f32IsNaN_of_finite hx), decide_eq_true_iff,
    f32Units_addFinite, (f32Units_eq_zero_iff z).mpr hz, zero_add]
  simpa using roundSigned_f32Units hx Nat.one_pos

/-- The two zeros. -/
theorem f32IsZero_iff (v : F32) : f32IsZero v = true ↔ v = 0x00000000#32 ∨ v = 0x80000000#32 := by
  have := v.isLt
  rw [f32IsZero, Bool.and_eq_true, decide_eq_true_iff, decide_eq_true_iff, f32Exponent, f32Fraction,
    ← BitVec.toNat_inj, ← BitVec.toNat_inj]
  simp only [BitVec.toNat_ofNat]
  omega

/-- A zero added on the left changes no pattern but that of -0.0. -/
theorem f32Add_zero_left {k : Nat} {z x : F32} (hz : f32IsZero z = true) (hx : f32Finite x = true)
    (hne : x ≠ 0x80000000#32) : f32Add k z x = x := by
  rw [f32Add_finite (f32Finite_of_isZero hz) hx]
  cases hx0 : f32IsZero x with
  | false => rw [f32AddFinite_comm, f32AddFinite_zero hx hx0 hz]
  | true =>
    obtain rfl := ((f32IsZero_iff x).mp hx0).resolve_right hne
    rcases (f32IsZero_iff z).mp hz with rfl | rfl <;> rfl

/-- Settles O41: at f = +0.0 the outer product is a zero, since its other factor is finite; and every
intermediate result is bounded. -/
theorem hermiteExactAndFinite : Obligations.HermiteExactAndFinite := by
  intro k xm1 x0 x1 x2 f hm1 h0 h1 h2
  have hslope {g : F32} (hg : AtMost 1 g) :=
    hermiteSlope_atMost k hm1.atMost_one h0.atMost_one h1.atMost_one h2.atMost_one hg
  have hx0 := h0.atMost_one.1
  have hzero : f32IsZero (f32Mul k (hermiteSlope k xm1 x0 x1 x2 0x00000000#32) 0x00000000#32) = true := by
    rw [f32Mul_zero_right (hslope (AtMost.zero 1)).1 rfl]
    cases f32Sign _ <;> rfl
  simp only [hermite_f32]
  refine ⟨f32Eq_zero_add hzero hx0, f32Add_zero_left hzero hx0, fun hlo hhi => ?_⟩
  have hf : AtMost 1 f := AtMost.of_inRange ⟨hlo, f32Le_of_lt hhi⟩ (AtMost.zero 1) AtMost.one
  exact (((hslope hf).mul hf (by decide)).add h0.atMost_one (by decide)).1

/-- The cubic of R106 in powers of `f`. -/
theorem hermite_real (xm1 x0 x1 x2 f : ℚ) : hermite realNum xm1 x0 x1 x2 f =
    x0 + (x1 - xm1) / 2 * f + (xm1 - 5 / 2 * x0 + 2 * x1 - 1 / 2 * x2) * f ^ 2 +
      ((x2 - xm1) / 2 + 3 / 2 * (x0 - x1)) * f ^ 3 := by
  simp only [hermite, realNum]
  push_cast
  ring

/-- The cubic as a weighted sum of the samples: the two outer weights are not positive, the two inner ones
not negative, for `f` in [0, 1]. -/
theorem hermite_real_weights (xm1 x0 x1 x2 f : ℚ) : hermite realNum xm1 x0 x1 x2 f =
    (1 - f) * (2 + 2 * f - 3 * f ^ 2) / 2 * x0 + f * (1 + 4 * f - 3 * f ^ 2) / 2 * x1 -
      f * (1 - f) ^ 2 / 2 * xm1 - f ^ 2 * (1 - f) / 2 * x2 := by
  rw [hermite_real]
  ring

theorem abs_weight_mul_le {w x : ℚ} (hw : 0 ≤ w) (hx : |x| ≤ 1) : |w * x| ≤ w := by
  rw [abs_mul, abs_of_nonneg hw]
  exact mul_le_of_le_one_right hw hx

/-- The weights' magnitudes add up to `1 + f (1 - f)`, which is at most 5/4 (R109). -/
theorem abs_hermite_real_le {xm1 x0 x1 x2 f : ℚ} (hm1 : |xm1| ≤ 1) (h0 : |x0| ≤ 1) (h1 : |x1| ≤ 1)
    (h2 : |x2| ≤ 1) (hf0 : 0 ≤ f) (hf1 : f ≤ 1) : |hermite realNum xm1 x0 x1 x2 f| ≤ 1 + f * (1 - f) := by
  have hg : 0 ≤ 1 - f := by linarith
  have hw0 : 0 ≤ (1 - f) * (2 + 2 * f - 3 * f ^ 2) / 2 := by
    have : 0 ≤ 2 + 2 * f - 3 * f ^ 2 := by nlinarith
    positivity
  have hw1 : 0 ≤ f * (1 + 4 * f - 3 * f ^ 2) / 2 := by
    have : 0 ≤ 1 + 4 * f - 3 * f ^ 2 := by nlinarith
    positivity
  have b0 := abs_weight_mul_le hw0 h0
  have b1 := abs_weight_mul_le hw1 h1
  have bm1 := abs_weight_mul_le (w := f * (1 - f) ^ 2 / 2) (by positivity) hm1
  have b2 := abs_weight_mul_le (w := f ^ 2 * (1 - f) / 2) (by positivity) h2
  rw [abs_le] at b0 b1 bm1 b2
  rw [hermite_real_weights, abs_le]
  constructor <;> linarith

/-- Settles O52: the cubic in powers of `f` gives the coefficients and both ends, the weighted sum the
bound. -/
theorem realHermite : Obligations.RealHermite := by
  intro xm1 x0 x1 x2 f
  refine ⟨hermite_real xm1 x0 x1 x2 f, ?_, ?_, fun hm1 h0 h1 h2 hf0 hf1 => ?_⟩
  · rw [hermite_real]
    ring
  · rw [hermite_real]
    ring
  · have hpeak : 1 + f * (1 - f) ≤ 5 / 4 := by nlinarith [sq_nonneg (2 * f - 1)]
    exact (abs_hermite_real_le hm1 h0 h1 h2 hf0 hf1).trans hpeak

end Sys2Proof.Machine

namespace Sys2Proof.Machine

/-! ### The tone filter stages over REAL (42_tone_filter_chain.md R115, R118, R119) -/

theorem onepole_real_memory (y0 g x : ℚ) (hp : Bool) :
    (onepole realNum y0 g x hp).1 = (1 - g) * y0 + g * x := by
  simp only [onepole, realNum]
  ring

theorem onepole_real_lowPass (y0 g x : ℚ) :
    (onepole realNum y0 g x false).2 = (1 - g) * y0 + g * x :=
  onepole_real_memory y0 g x false

/-- The non-canonical high-pass of R118: the new memory minus the input, in this order. -/
theorem onepole_real_highPass (y0 g x : ℚ) :
    (onepole realNum y0 g x true).2 = (onepole realNum y0 g x true).1 - x := rfl

theorem abs_onepole_real_memory_le {M y0 g x : ℚ} (hp : Bool) (hg0 : 0 ≤ g) (hg1 : g ≤ 1)
    (hy : |y0| ≤ M) (hx : |x| ≤ M) : |(onepole realNum y0 g x hp).1| ≤ M := by
  rw [onepole_real_memory]
  exact abs_le.mpr
    (convex_Icc (-M) M (abs_le.mp hy) (abs_le.mp hx) (sub_nonneg.mpr hg1) hg0 (sub_add_cancel 1 g))

theorem abs_onepole_real_highPass_le {M y0 g x : ℚ} (hg0 : 0 ≤ g) (hg1 : g ≤ 1)
    (hy : |y0| ≤ M) (hx : |x| ≤ M) : |(onepole realNum y0 g x true).2| ≤ 2 * M := by
  have hmem := abs_onepole_real_memory_le true hg0 hg1 hy hx
  calc |(onepole realNum y0 g x true).2|
      = |(onepole realNum y0 g x true).1 - x| := by rw [onepole_real_highPass]
    _ ≤ |(onepole realNum y0 g x true).1| + |x| := abs_sub _ _
    _ ≤ 2 * M := by linarith

/-! ### The DC blocker over REAL (42_tone_filter_chain.md R120, R121) -/

theorem dcBlock_real_output (b : BlockState ℚ) (x : ℚ) :
    (dcBlock realNum b x).2 = x - b.dcX1 + 995 / 1000 * b.dcY1 := by
  simp [dcBlock, dcR, realNum]

theorem dcBlock_state {α : Type} (O : Numerics α) (b : BlockState α) (x : α) :
    (dcBlock O b x).1 = { b with dcX1 := x, dcY1 := (dcBlock O b x).2 } := rfl

/-- 400 M is the fixed point of R121: the difference adds at most 2 M, which is what the factor 0.995 takes
off 400 M. -/
theorem abs_dcBlock_real_le {M x : ℚ} {b : BlockState ℚ} (hx1 : |b.dcX1| ≤ M)
    (hy1 : |b.dcY1| ≤ 400 * M) (hx : |x| ≤ M) : |(dcBlock realNum b x).2| ≤ 400 * M := by
  have hdiff : |x - b.dcX1| ≤ 2 * M := by linarith [abs_sub x b.dcX1]
  have hfeedback : |995 / 1000 * b.dcY1| ≤ 398 * M := by
    rw [abs_mul, abs_of_nonneg (by norm_num)]
    linarith
  rw [dcBlock_real_output]
  linarith [abs_add_le (x - b.dcX1) (995 / 1000 * b.dcY1)]

/-- Settles O54: the memory is a convex combination, the high-pass output that memory minus the input, and
400 M is kept by the DC blocker's recurrence. -/
theorem realFilterBounds : Obligations.RealFilterBounds := by
  refine ⟨fun y0 g x => ⟨onepole_real_memory y0 g x false, onepole_real_lowPass y0 g x,
      onepole_real_memory y0 g x true, ?_⟩,
    fun M y0 g x hg0 hg1 hy hx => ?_, fun M x b hx1 hy1 hx =>
      ⟨dcBlock_real_output b x, dcBlock_state realNum b x, abs_dcBlock_real_le hx1 hy1 hx⟩⟩
  · rw [onepole_real_highPass, onepole_real_memory]
    ring
  · have hmem := fun hp => abs_onepole_real_memory_le hp hg0 hg1.le hy hx
    exact ⟨hmem false, hmem true, hmem false, abs_onepole_real_highPass_le hg0 hg1.le hy hx⟩

end Sys2Proof.Machine

namespace Sys2Proof.Machine

/-! ### The saturator over REAL (43_saturator_limiter.md R125, R126 (g)) -/

/-- The rational function of R125, over the whole line. -/
def satRatio (u : ℚ) : ℚ := u * (27 + u ^ 2) / (27 + 9 * u ^ 2)

theorem satRatio_neg (u : ℚ) : satRatio (-u) = -satRatio u := by
  simp only [satRatio, even_two.neg_pow, neg_mul, neg_div]

theorem satRatio_three : satRatio 3 = 1 := by norm_num [satRatio]

/-- R125's function rises everywhere: cross-multiplied, the difference of two values is the difference of the
arguments times a sum of squares. -/
theorem satRatio_mono : Monotone satRatio := fun u v h => by
  have hdiff : v * (27 + v ^ 2) * (27 + 9 * u ^ 2) - u * (27 + u ^ 2) * (27 + 9 * v ^ 2) =
      9 * (v - u) * (3 * (u - v) ^ 2 + (9 - u * v) ^ 2) := by ring
  have hnonneg : 0 ≤ 9 * (v - u) * (3 * (u - v) ^ 2 + (9 - u * v) ^ 2) :=
    mul_nonneg (by linarith) (by positivity)
  rw [satRatio, satRatio, div_le_div_iff₀ (by positivity) (by positivity)]
  linarith

/-- Off zero the quotient that multiplies `u` in R125's function is below 1. -/
theorem abs_satRatio_lt {u : ℚ} (h : u ≠ 0) : |satRatio u| < |u| := by
  have hsq : 0 < u ^ 2 := by positivity
  have hfactor : |(27 + u ^ 2) / (27 + 9 * u ^ 2)| < 1 := by
    rw [abs_of_pos (by positivity), div_lt_one (by positivity)]
    linarith
  rw [satRatio, mul_div_assoc, abs_mul]
  exact mul_lt_of_lt_one_right (abs_pos.mpr h) hfactor

/-- The argument brought into [-3, 3], SAT_EDGE being 3. -/
def satArgument (u : ℚ) : ℚ := max (-3) (min u 3)

theorem satArgument_neg (u : ℚ) : satArgument (-u) = -satArgument u := by
  have hedge : max (-3 : ℚ) 3 = 3 := by norm_num
  rw [satArgument, satArgument, neg_sup, neg_inf, neg_neg, max_min_distrib_left, hedge, min_comm, max_comm]

theorem satArgument_mono : Monotone satArgument := fun _ _ h => max_le_max_left _ (min_le_min_right _ h)

theorem satArgument_of_abs_lt {u : ℚ} (h : |u| < 3) : satArgument u = u := by
  obtain ⟨hlo, hhi⟩ := abs_lt.mp h
  rw [satArgument, min_eq_left hhi.le, max_eq_right hlo.le]

theorem abs_satRatio_le_one {u : ℚ} (h : |u| ≤ 3) : |satRatio u| ≤ 1 := by
  obtain ⟨hlo, hhi⟩ := abs_le.mp h
  have hl := satRatio_mono hlo
  have hh := satRatio_mono hhi
  rw [satRatio_neg, satRatio_three] at hl
  rw [satRatio_three] at hh
  exact abs_le.mpr ⟨hl, hh⟩

theorem abs_satArgument_le (u : ℚ) : |satArgument u| ≤ 3 :=
  abs_le.mpr ⟨le_max_left _ _, max_le (by norm_num) (min_le_right _ _)⟩

/-- R126 (g): the saturator compresses; inside the edges as `satRatio` does, beyond them because 1 < 3. -/
theorem abs_satRatio_satArgument_lt {u : ℚ} (h : u ≠ 0) : |satRatio (satArgument u)| < |u| := by
  rcases lt_or_ge |u| 3 with h3 | h3
  · rw [satArgument_of_abs_lt h3]
    exact abs_satRatio_lt h
  · linarith [abs_satRatio_le_one (abs_satArgument_le u)]

/-- In REAL the output guard of R125 never fires, and from the edge on the value is the one at the edge. -/
theorem sat_real (u : ℚ) : sat realNum u = satRatio (satArgument u) := by
  have hone : ((1 : ℕ) : ℚ) / (1 : ℕ) = 1 := by norm_num
  have hedge : ((3 : ℕ) : ℚ) / (1 : ℕ) = 3 := by norm_num
  simp only [sat, satEdge, realNum, decide_eq_true_eq, hone, hedge]
  split
  next hge => rw [satArgument, min_eq_right hge, max_eq_right (by norm_num), satRatio_three]
  next hge =>
    split
    next hle =>
      rw [satArgument, max_eq_left ((min_le_left u 3).trans hle), satRatio_neg, satRatio_three]
    next hle =>
      have habs : |u| < 3 := abs_lt.mpr ⟨not_le.mp hle, not_le.mp hge⟩
      have hratio : u * (((27 : ℕ) : ℚ) / (1 : ℕ) + u * u) /
          (((27 : ℕ) : ℚ) / (1 : ℕ) + ((9 : ℕ) : ℚ) / (1 : ℕ) * (u * u)) = satRatio u := by
        norm_num [satRatio, sq]
      obtain ⟨hlo, hhi⟩ := abs_le.mp (abs_satRatio_le_one habs.le)
      rw [hratio, if_neg hhi.not_gt, if_neg hlo.not_gt, satArgument_of_abs_lt habs]

/-! ### The limiter over REAL (43_saturator_limiter.md R128, R129) -/

theorem lim_real_above {v : ℚ} (h : 1 < v) : lim realNum v = 2 - 1 / v := by
  simp [lim, realNum, h]

theorem lim_real_below {v : ℚ} (h : v < -1) : lim realNum v = -2 - 1 / v := by
  have hnot : ¬ 1 < v := by linarith
  simp [lim, realNum, h, hnot]

theorem lim_real_inside {v : ℚ} (h : |v| ≤ 1) : lim realNum v = v := by
  obtain ⟨hlo, hhi⟩ := abs_le.mp h
  simp [lim, realNum, hlo.not_gt, hhi.not_gt]

/-- Above 1 the limiter takes off 2 a reciprocal between 0 and 1; below -1 it does the same mirrored. -/
theorem abs_lim_real_lt_two (v : ℚ) : |lim realNum v| < 2 := by
  rcases le_or_gt |v| 1 with h | h
  · rw [lim_real_inside h]
    linarith
  · rcases lt_abs.mp h with hv | hv
    · have hpos : 0 < 1 / v := by positivity
      have hlt : 1 / v < 1 := (div_lt_one (by linarith)).mpr hv
      rw [lim_real_above hv, abs_lt]
      constructor <;> linarith
    · have hpos : 0 < 1 / -v := by positivity
      have hlt : 1 / -v < 1 := (div_lt_one (by linarith)).mpr hv
      rw [one_div_neg_eq_neg_one_div] at hpos hlt
      rw [lim_real_below (lt_neg.mp hv), abs_lt]
      constructor <;> linarith

/-- Settles O53: the saturator is `satRatio` of the argument brought into [-3, 3], both odd and
non-decreasing; the limiter by its three branches. -/
theorem realSaturatorAndLimiter : Obligations.RealSaturatorAndLimiter := by
  refine ⟨fun u hu => ?_, fun u => ⟨?_, ?_, fun hu => ?_⟩, fun u v huv => ?_, fun v =>
    ⟨lim_real_inside, lim_real_above, lim_real_below, abs_lim_real_lt_two v⟩⟩ <;> simp only [sat_real]
  · rw [satArgument_of_abs_lt hu, satRatio]
  · exact abs_satRatio_le_one (abs_satArgument_le u)
  · rw [satArgument_neg, satRatio_neg]
  · exact abs_satRatio_satArgument_lt hu
  · exact satRatio_mono (satArgument_mono huv)

end Sys2Proof.Machine

namespace Sys2Proof.Machine

/-! ### The primitives on negated operands: NUM-SYM bit for bit (40_numerics.md R91) -/

theorem f32Neg_pack (n : Bool) {low : Nat} (h : low < 2147483648) :
    f32Neg (f32Pack n low) = f32Pack (!n) low := by
  have hmod : (f32Pack n low).toNat % 2147483648 = low := by
    rw [f32Pack_toNat n h]
    cases n <;> simp <;> omega
  rw [f32Neg, f32Sign_pack n h, hmod]

theorem f32IsZero_of_units_ne_zero {a : F32} (h : f32Units a ≠ 0) : f32IsZero a = false := by
  rwa [Bool.eq_false_iff, ne_eq, ← f32Units_eq_zero_iff]

theorem f32IsZero_neg (a : F32) : f32IsZero (f32Neg a) = f32IsZero a := by
  simp [f32IsZero]

theorem f32Le_neg_neg (a b : F32) : f32Le (f32Neg a) (f32Neg b) = f32Le b a := by
  simp [f32Le, f32Ordered, Bool.and_comm]

theorem f32Lt_neg_neg (a b : F32) : f32Lt (f32Neg a) (f32Neg b) = f32Lt b a := by
  simp [f32Lt, f32Ordered, Bool.and_comm]

theorem not_f32Le_of_lt {a b : F32} (h : f32Lt a b = true) : ¬ f32Le b a = true := by
  obtain ⟨_, _, hlt⟩ := (f32Lt_iff a b).mp h
  rw [f32Le_iff]
  omega

theorem f32Lt_of_lt_of_le {a b c : F32} (h : f32Lt a b = true) (h' : f32Le b c = true) :
    f32Lt a c = true := by
  obtain ⟨ha, _, hab⟩ := (f32Lt_iff a b).mp h
  obtain ⟨_, hc, hbc⟩ := (f32Le_iff b c).mp h'
  exact (f32Lt_iff a c).mpr ⟨ha, hc, hab.trans_le hbc⟩

theorem f32Mul_neg_left {k : Nat} {a b : F32} (ha : f32Finite a = true) (hb : f32Finite b = true) :
    f32Mul k (f32Neg a) b = f32Neg (f32Mul k a b) := by
  rw [f32Mul_finite ha hb, f32Mul_finite (by simpa using ha) hb, f32Neg_pack _ (roundUnits_lt _ _)]
  simp

theorem f32Mul_neg_neg {k : Nat} {a b : F32} (ha : f32Finite a = true) (hb : f32Finite b = true) :
    f32Mul k (f32Neg a) (f32Neg b) = f32Mul k a b := by
  rw [f32Mul_finite ha hb, f32Mul_finite (by simpa using ha) (by simpa using hb)]
  simp

theorem f32Div_neg_left {k : Nat} {a b : F32} (ha : f32Finite a = true) (hb : f32Finite b = true)
    (hb0 : f32IsZero b = false) : f32Div k (f32Neg a) b = f32Neg (f32Div k a b) := by
  rw [f32Div_finite ha hb hb0, f32Div_finite (by simpa using ha) hb hb0, f32Neg_pack _ (roundUnits_lt _ _)]
  simp

theorem f32Div_neg_right {k : Nat} {a b : F32} (ha : f32Finite a = true) (hb : f32IsNaN b = false)
    (hb0 : f32IsZero b = false) : f32Div k a (f32Neg b) = f32Neg (f32Div k a b) := by
  rcases f32_class b with ⟨hfin, _, _⟩ | ⟨_, hinf, _⟩ | ⟨_, _, hnan⟩
  · rw [f32Div_finite ha hfin hb0, f32Div_finite ha (by simpa using hfin) (by rwa [f32IsZero_neg]),
      f32Neg_pack _ (roundUnits_lt _ _)]
    simp
  · have hai := f32IsInf_of_finite ha
    have han := f32IsNaN_of_finite ha
    rw [f32Div, f32Div, f32Quotient_of_inf_right hai hinf, f32Quotient_of_inf_right hai (by simpa using hinf),
      orNaN_of_some han hb, orNaN_of_some han (by simpa using hb), f32Neg_pack _ (by decide)]
    simp
  · simp [hb] at hnan

theorem f32AddFinite_neg_neg {a b : F32} (h : f32Units a + f32Units b ≠ 0) :
    f32AddFinite (f32Neg a) (f32Neg b) = f32Neg (f32AddFinite a b) := by
  have hsum : f32Units (f32Neg a) + f32Units (f32Neg b) = -(f32Units a + f32Units b) := by simp; ring
  have hsign : decide (-(f32Units a + f32Units b) < 0) = !decide (f32Units a + f32Units b < 0) := by
    rw [← decide_not]
    exact decide_eq_decide.mpr (by omega)
  rw [f32AddFinite_eq a b h, f32AddFinite_eq _ _ (by omega), hsum, Int.natAbs_neg, hsign,
    f32Neg_pack _ (roundUnits_lt _ _)]

theorem Within.neg {b v : F32} (h : Within b v) : Within b (f32Neg v) :=
  ⟨by rw [f32Le_neg_neg]; exact h.2, by rw [← f32Neg_neg b, f32Le_neg_neg]; exact h.1⟩

theorem Within.mono {b b' v : F32} (hb : f32Le b b' = true) (h : Within b v) : Within b' v :=
  ⟨f32Le_trans (by rwa [f32Le_neg_neg]) h.1, f32Le_trans h.2 hb⟩

theorem neg_one_le_one : f32Le (f32Neg 0x3F800000#32) 0x3F800000#32 = true := by decide +kernel

theorem not_lt_neg_one_of_one_lt {v : F32} (h : f32Lt 0x3F800000#32 v = true) :
    ¬ f32Lt v (f32Neg 0x3F800000#32) = true := fun hn =>
  not_f32Le_of_lt hn (f32Le_trans neg_one_le_one (f32Le_of_lt h))

theorem Within.one : Within 0x3F800000#32 0x3F800000#32 :=
  ⟨neg_one_le_one, f32Le_refl rfl⟩

/-! ### The saturator in binary32 (43_saturator_limiter.md R125, R126) -/

/-- `num` of R125. -/
def satNumerator (k : Nat) (u : F32) : F32 := f32Mul k u (f32Add k 0x41D80000#32 (f32Mul k u u))

/-- `den` of R125. -/
def satDenominator (k : Nat) (u : F32) : F32 :=
  f32Add k 0x41D80000#32 (f32Mul k 0x41100000#32 (f32Mul k u u))

/-- `q` of R125. -/
def satQuotient (k : Nat) (u : F32) : F32 := f32Div k (satNumerator k u) (satDenominator k u)

/-- The output guard of R125. -/
def unitGuard (q : F32) : F32 :=
  if f32Lt 0x3F800000#32 q then 0x3F800000#32
  else if f32Lt q (f32Neg 0x3F800000#32) then f32Neg 0x3F800000#32
  else q

theorem unitGuard_of_nan {q : F32} (h : f32IsNaN q = true) : unitGuard q = q := by
  simp [unitGuard, f32Lt, f32Ordered, h]

theorem within_unitGuard {q : F32} (h : f32IsNaN q = false) : Within 0x3F800000#32 (unitGuard q) := by
  unfold unitGuard
  split
  · exact Within.one
  next hq => exact inRange_lowerGuard neg_one_le_one (f32Le_of_not_lt h rfl hq)

theorem unitGuard_neg (q : F32) : unitGuard (f32Neg q) = f32Neg (unitGuard q) := by
  have habove : f32Lt 0x3F800000#32 (f32Neg q) = f32Lt q (f32Neg 0x3F800000#32) := by
    rw [← f32Lt_neg_neg, f32Neg_neg]
  simp only [unitGuard, habove, f32Lt_neg_neg]
  cases h1 : f32Lt 0x3F800000#32 q with
  | true => simp [not_lt_neg_one_of_one_lt h1]
  | false => cases f32Lt q (f32Neg 0x3F800000#32) <;> simp

/-- The model's `sat` in binary32, with its literals as patterns. -/
theorem sat_f32 (k : Nat) (u : F32) : sat (f32Num k) u =
    if f32Le 0x40400000#32 u then 0x3F800000#32
    else if f32Le u (f32Neg 0x40400000#32) then f32Neg 0x3F800000#32
    else unitGuard (satQuotient k u) := by
  have h1 : f32Lit 1 1 = 0x3F800000#32 := by decide +kernel
  have h9 : f32Lit 9 1 = 0x41100000#32 := by decide +kernel
  have h27 : f32Lit 27 1 = 0x41D80000#32 := by decide +kernel
  rw [satQuotient, satNumerator, satDenominator, unitGuard, ← h1, ← h9, ← h27, ← satEdge_f32 k]
  rfl

theorem sat_of_edge_le (k : Nat) {u : F32} (h : f32Le 0x40400000#32 u = true) :
    sat (f32Num k) u = 0x3F800000#32 := by
  rw [sat_f32, if_pos h]

theorem sat_of_le_neg_edge (k : Nat) {u : F32} (h : f32Le u (f32Neg 0x40400000#32) = true) :
    sat (f32Num k) u = f32Neg 0x3F800000#32 := by
  have hedges : ¬ f32Le 0x40400000#32 (f32Neg 0x40400000#32) = true := by decide +kernel
  have hnot : ¬ f32Le 0x40400000#32 u = true := fun hge => hedges (f32Le_trans hge h)
  rw [sat_f32, if_neg hnot, if_pos h]

theorem sat_of_nan (k : Nat) {u : F32} (h : f32IsNaN u = true) : IsQuietNaN (sat (f32Num k) u) := by
  have hnum : f32IsNaN (satNumerator k u) = true := (orNaN_of_nan (.inl h)).isNaN
  have hquot : IsQuietNaN (satQuotient k u) := orNaN_of_nan (.inl hnum)
  rw [sat_f32, unitGuard_of_nan hquot.isNaN]
  simpa [f32Le, f32Ordered, h] using hquot

/-- Strictly between the edges: the rational branch of R125. -/
structure BetweenEdges (u : F32) : Prop where
  upper : f32Lt u 0x40400000#32 = true
  lower : f32Lt (f32Neg 0x40400000#32) u = true

theorem BetweenEdges.neg {u : F32} (h : BetweenEdges u) : BetweenEdges (f32Neg u) where
  upper := by rw [← f32Neg_neg 0x40400000#32, f32Lt_neg_neg]; exact h.lower
  lower := by rw [f32Lt_neg_neg]; exact h.upper

/-- The three branches of R125 for a number. -/
theorem sat_branches {u : F32} (h : f32IsNaN u = false) :
    f32Le 0x40400000#32 u = true ∨ f32Le u (f32Neg 0x40400000#32) = true ∨ BetweenEdges u := by
  by_cases hup : f32Lt u 0x40400000#32 = true
  · by_cases hlo : f32Lt (f32Neg 0x40400000#32) u = true
    · exact .inr (.inr ⟨hup, hlo⟩)
    · exact .inr (.inl (f32Le_of_not_lt h rfl hlo))
  · exact .inl (f32Le_of_not_lt rfl h hup)

theorem BetweenEdges.sat (k : Nat) {u : F32} (h : BetweenEdges u) :
    sat (f32Num k) u = unitGuard (satQuotient k u) := by
  rw [sat_f32, if_neg (not_f32Le_of_lt h.upper), if_neg (not_f32Le_of_lt h.lower)]

/-- A whole literal is at most itself. -/
theorem AtMost.of_lit {m : Nat} {v : F32} (h : f32Lit m 1 = v) (hm : m ≤ 2 ^ 24) : AtMost m v := by
  obtain ⟨hfin, hvalue⟩ := f32Lit_whole_exact hm
  rw [h] at hfin hvalue
  exact ⟨hfin, by simp [hvalue]⟩

section BetweenEdges

variable {u : F32} (h : BetweenEdges u)
include h

theorem BetweenEdges.atMost : AtMost 3 u := by
  have h3 : AtMost 3 0x40400000#32 := AtMost.of_lit (by decide +kernel) (by decide)
  exact AtMost.of_inRange ⟨f32Le_of_lt h.lower, f32Le_of_lt h.upper⟩ h3.neg h3

theorem BetweenEdges.satFactor_atMost (k : Nat) :
    AtMost 36 (f32Add k 0x41D80000#32 (f32Mul k u u)) := by
  have h27 : AtMost 27 0x41D80000#32 := AtMost.of_lit (by decide +kernel) (by decide)
  exact h27.add (h.atMost.mul h.atMost (by decide)) (by decide)

/-- R126 (f): the numerator does not overflow. -/
theorem BetweenEdges.finite_satNumerator (k : Nat) : f32Finite (satNumerator k u) = true :=
  (h.atMost.mul (h.satFactor_atMost k) (by decide)).1

/-- R126 (e), (f): the denominator is a finite value of at least 27. -/
theorem BetweenEdges.satDenominator_bounds (k : Nat) :
    f32Finite (satDenominator k u) = true ∧ f32Units 0x41D80000#32 ≤ f32Units (satDenominator k u) := by
  have h9 : AtMost 9 0x41100000#32 := AtMost.of_lit (by decide +kernel) (by decide)
  have h27 : AtMost 27 0x41D80000#32 := AtMost.of_lit (by decide +kernel) (by decide)
  have hsq := h.atMost.mul h.atMost (k := k) (by decide)
  have hterm := h9.mul hsq (k := k) (by decide)
  have hpow : 0 < 2 ^ 149 := Nat.two_pow_pos 149
  have hsq0 : 0 ≤ f32Units (f32Mul k u u) := by
    rw [f32Units_mul h.atMost.1 h.atMost.1]
    exact roundSigned_nonneg hpow (mul_self_nonneg _)
  have hterm0 : 0 ≤ f32Units (f32Mul k 0x41100000#32 (f32Mul k u u)) := by
    rw [f32Units_mul h9.1 hsq.1]
    exact roundSigned_nonneg hpow (mul_nonneg (by decide +kernel) hsq0)
  refine ⟨(h27.add hterm (by decide)).1, ?_⟩
  rw [satDenominator, f32Add_finite h27.1 hterm.1, f32Units_addFinite]
  exact f32Units_le_roundSigned h27.1 Nat.one_pos (by push_cast; omega)

theorem BetweenEdges.satDenominator_ne_zero (k : Nat) : f32IsZero (satDenominator k u) = false := by
  obtain ⟨_, hle⟩ := h.satDenominator_bounds k
  have hpos : 0 < f32Units 0x41D80000#32 := by decide +kernel
  exact f32IsZero_of_units_ne_zero (by omega)

/-- A finite quotient of finite operands is a number. -/
theorem BetweenEdges.satQuotient_number (k : Nat) : f32IsNaN (satQuotient k u) = false := by
  rw [satQuotient, f32Div_finite (h.finite_satNumerator k) (h.satDenominator_bounds k).1
    (h.satDenominator_ne_zero k)]
  exact f32IsNaN_pack_roundUnits _ _ _

/-- R126 (c): the square is even, so the numerator is odd and the denominator even. -/
theorem BetweenEdges.satQuotient_neg (k : Nat) : satQuotient k (f32Neg u) = f32Neg (satQuotient k u) := by
  have hsq : f32Mul k (f32Neg u) (f32Neg u) = f32Mul k u u := f32Mul_neg_neg h.atMost.1 h.atMost.1
  have hnum : satNumerator k (f32Neg u) = f32Neg (satNumerator k u) := by
    rw [satNumerator, hsq, f32Mul_neg_left h.atMost.1 (h.satFactor_atMost k).1, satNumerator]
  have hden : satDenominator k (f32Neg u) = satDenominator k u := by
    rw [satDenominator, hsq, satDenominator]
  rw [satQuotient, hnum, hden, f32Div_neg_left (h.finite_satNumerator k) (h.satDenominator_bounds k).1
    (h.satDenominator_ne_zero k), satQuotient]

end BetweenEdges

/-- R126 (a). -/
theorem sat_within (k : Nat) {u : F32} (h : f32IsNaN u = false) : Within 0x3F800000#32 (sat (f32Num k) u) := by
  rcases sat_branches h with hu | hu | hu
  · rw [sat_of_edge_le k hu]
    exact Within.one
  · rw [sat_of_le_neg_edge k hu]
    exact Within.one.neg
  · rw [hu.sat k]
    exact within_unitGuard (hu.satQuotient_number k)

/-- R126 (c). -/
theorem sat_neg (k : Nat) {u : F32} (h : f32IsNaN u = false) :
    sat (f32Num k) (f32Neg u) = f32Neg (sat (f32Num k) u) := by
  rcases sat_branches h with hu | hu | hu
  · rw [sat_of_edge_le k hu, sat_of_le_neg_edge k (by rwa [f32Le_neg_neg])]
  · have hneg : f32Le 0x40400000#32 (f32Neg u) = true := by rwa [← f32Le_neg_neg, f32Neg_neg]
    rw [sat_of_le_neg_edge k hu, sat_of_edge_le k hneg, f32Neg_neg]
  · rw [hu.neg.sat k, hu.sat k, hu.satQuotient_neg k, unitGuard_neg]

/-- R126 (b): at +0.0 the square and the numerator are +0.0, and the denominator is 27. -/
theorem sat_zero (k : Nat) : sat (f32Num k) 0x00000000#32 = 0x00000000#32 := by
  have hsq : f32Mul k 0x00000000#32 0x00000000#32 = 0x00000000#32 := f32Mul_zero_left rfl rfl
  have hfactor : f32Add k 0x41D80000#32 0x00000000#32 = 0x41D80000#32 := by
    rw [f32Add_finite rfl rfl, f32AddFinite_zero rfl rfl rfl]
  have hnum : f32Mul k 0x00000000#32 0x41D80000#32 = 0x00000000#32 := f32Mul_zero_left rfl rfl
  have hterm : f32Mul k 0x41100000#32 0x00000000#32 = 0x00000000#32 := f32Mul_zero_right rfl rfl
  have hquot : f32Div k 0x00000000#32 0x41D80000#32 = 0x00000000#32 := f32Div_zero_left rfl rfl rfl
  have hbetween : BetweenEdges 0x00000000#32 := ⟨by decide +kernel, by decide +kernel⟩
  rw [hbetween.sat k, satQuotient, satNumerator, satDenominator, hsq, hfactor, hnum, hterm, hfactor, hquot]
  decide +kernel

/-- Settles O37: by the branches of R125; at -0.0 by oddness. -/
theorem saturatorProperties : Obligations.SaturatorProperties := fun k u =>
  ⟨fun h => ⟨sat_within k h, sat_neg k h⟩, sat_of_nan k, sat_zero k, by
    rw [show 0x80000000#32 = f32Neg 0x00000000#32 from rfl, sat_neg k rfl, sat_zero]⟩

end Sys2Proof.Machine

namespace Sys2Proof.Machine

/-! ### The limiter in binary32 (43_saturator_limiter.md R128, R129) -/

/-- The first branch of R128: 2 less the reciprocal. -/
def limKnee (k : Nat) (v : F32) : F32 := f32Sub k 0x40000000#32 (f32Div k 0x3F800000#32 v)

/-- The model's `lim` in binary32, with its literals as patterns. -/
theorem lim_f32 (k : Nat) (v : F32) : lim (f32Num k) v =
    if f32Lt 0x3F800000#32 v then limKnee k v
    else if f32Lt v (f32Neg 0x3F800000#32) then
      f32Sub k (f32Neg 0x40000000#32) (f32Div k 0x3F800000#32 v)
    else v := by
  have h1 : f32Lit 1 1 = 0x3F800000#32 := by decide +kernel
  have h2 : f32Lit 2 1 = 0x40000000#32 := by decide +kernel
  rw [limKnee, ← h1, ← h2]
  rfl

theorem f32Units_two : f32Units 0x40000000#32 = 2 * f32Units 0x3F800000#32 := by decide +kernel

theorem f32Units_one : f32Units 0x3F800000#32 = 2 ^ 149 := by decide +kernel

theorem finite_or_infinity_of_nonneg {v : F32} (h : f32IsNaN v = false) (h0 : 0 ≤ f32Units v) :
    f32Finite v = true ∨ v = 0x7F800000#32 := by
  rcases f32_class v with ⟨hfin, _, _⟩ | ⟨_, hinf, _⟩ | ⟨_, _, hnan⟩
  · exact .inl hfin
  · have hneg : f32Units 0xFF800000#32 < 0 := by decide +kernel
    exact .inr (((f32IsInf_iff v).mp hinf).resolve_right (by rintro rfl; omega))
  · simp [h] at hnan

theorem reciprocal_infinity (k : Nat) : f32Div k 0x3F800000#32 0x7F800000#32 = 0x00000000#32 := by
  rw [f32Div, f32Quotient_of_inf_right rfl rfl]
  exact orNaN_of_some rfl rfl

/-- The reciprocal of a finite positive value, as units. -/
theorem f32Units_reciprocal {k : Nat} {v : F32} (hf : f32Finite v = true) (h0 : 0 < f32Units v) :
    f32Units (f32Div k 0x3F800000#32 v) = roundSigned (2 ^ 149 * 2 ^ 149) (f32Magnitude v) := by
  rw [f32Units_div rfl hf (f32IsZero_of_units_ne_zero h0.ne'), Int.sign_eq_one_of_pos h0, f32Units_one, mul_one]

section above

variable {k : Nat} {v : F32} (h : f32Lt 0x3F800000#32 v = true)
include h

theorem two_pow_lt_units : 2 ^ 149 < f32Units v := by
  obtain ⟨_, _, hlt⟩ := (f32Lt_iff _ _).mp h
  rwa [f32Units_one] at hlt

theorem finite_or_infinity_of_one_lt : f32Finite v = true ∨ v = 0x7F800000#32 := by
  obtain ⟨_, hv, _⟩ := (f32Lt_iff _ _).mp h
  have hunits := two_pow_lt_units h
  exact finite_or_infinity_of_nonneg hv (by omega)

theorem reciprocal_bounds : f32Finite (f32Div k 0x3F800000#32 v) = true ∧
    0 ≤ f32Units (f32Div k 0x3F800000#32 v) ∧
    f32Units (f32Div k 0x3F800000#32 v) ≤ f32Units 0x3F800000#32 := by
  rcases finite_or_infinity_of_one_lt h with hf | rfl
  · have hunits := two_pow_lt_units h
    have hmag := natAbs_f32Units v
    have hpos : 0 < f32Magnitude v := by omega
    have hlo : 0 ≤ f32Units (f32Div k 0x3F800000#32 v) := by
      rw [f32Units_reciprocal hf (by omega)]
      exact roundSigned_nonneg hpos (by positivity)
    have hhi : f32Units (f32Div k 0x3F800000#32 v) ≤ f32Units 0x3F800000#32 := by
      rw [f32Units_reciprocal hf (by omega)]
      refine roundSigned_le_f32Units rfl hpos ?_
      rw [f32Units_one]
      exact mul_le_mul_of_nonneg_left (by omega) (by positivity)
    exact ⟨f32Finite_of_natAbs_le (by omega) (show f32Finite 0x3F800000#32 = true from rfl), hlo, hhi⟩
  · rw [reciprocal_infinity]
    decide +kernel

/-- The greater the value, the lesser its reciprocal, the infinity's being +0.0. -/
theorem reciprocal_antitone {w : F32} (hw : f32Le v w = true) :
    f32Units (f32Div k 0x3F800000#32 w) ≤ f32Units (f32Div k 0x3F800000#32 v) := by
  have hv := two_pow_lt_units h
  have hwv := two_pow_lt_units (f32Lt_of_lt_of_le h hw)
  obtain ⟨_, _, hle⟩ := (f32Le_iff _ _).mp hw
  rcases finite_or_infinity_of_one_lt (f32Lt_of_lt_of_le h hw) with hf | rfl
  · have hfv : f32Finite v = true := f32Finite_of_natAbs_le (by omega) hf
    have hmv := natAbs_f32Units v
    have hmw := natAbs_f32Units w
    rw [f32Units_reciprocal hf (by omega), f32Units_reciprocal hfv (by omega)]
    exact roundSigned_mono (by omega) (by omega) (mul_le_mul_of_nonneg_left (by omega) (by positivity))
  · obtain ⟨_, hlo, _⟩ := reciprocal_bounds (k := k) h
    rw [reciprocal_infinity]
    exact hlo

theorem f32Units_limKnee : f32IsNaN (limKnee k v) = false ∧ f32Units (limKnee k v) =
    roundSigned (f32Units 0x40000000#32 - f32Units (f32Div k 0x3F800000#32 v)) 1 := by
  obtain ⟨hfin, _, _⟩ := reciprocal_bounds (k := k) h
  rw [limKnee, f32Sub_finite rfl hfin]
  exact ⟨f32IsNaN_addFinite _ _, by rw [f32Units_addFinite, f32Units_neg, sub_eq_add_neg]⟩

theorem limKnee_inRange : InRange 0x3F800000#32 0x40000000#32 (limKnee k v) := by
  obtain ⟨_, hlo, hhi⟩ := reciprocal_bounds (k := k) h
  obtain ⟨hnum, hunits⟩ := f32Units_limKnee (k := k) h
  have h2 := f32Units_two
  refine ⟨(f32Le_iff _ _).mpr ⟨rfl, hnum, ?_⟩, (f32Le_iff _ _).mpr ⟨hnum, rfl, ?_⟩⟩ <;> rw [hunits]
  · exact f32Units_le_roundSigned rfl Nat.one_pos (by push_cast; omega)
  · exact roundSigned_le_f32Units rfl Nat.one_pos (by push_cast; omega)

theorem limKnee_mono {w : F32} (hw : f32Le v w = true) : f32Le (limKnee k v) (limKnee k w) = true := by
  obtain ⟨hnum, hunits⟩ := f32Units_limKnee (k := k) h
  obtain ⟨hnum', hunits'⟩ := f32Units_limKnee (k := k) (f32Lt_of_lt_of_le h hw)
  have hrec := reciprocal_antitone (k := k) h hw
  refine (f32Le_iff _ _).mpr ⟨hnum, hnum', ?_⟩
  rw [hunits, hunits']
  exact roundSigned_mono Nat.one_pos Nat.one_pos (by push_cast; omega)

/-- The second branch of R128 at the negated value is the first branch negated. -/
theorem limKnee_neg : f32Sub k (f32Neg 0x40000000#32) (f32Div k 0x3F800000#32 (f32Neg v)) =
    f32Neg (limKnee k v) := by
  obtain ⟨_, hv, _⟩ := (f32Lt_iff _ _).mp h
  have hunits := two_pow_lt_units h
  have hne : f32IsZero v = false := f32IsZero_of_units_ne_zero (by omega)
  obtain ⟨hfin, _, hle⟩ := reciprocal_bounds (k := k) h
  have h2 := f32Units_two
  have h1 := f32Units_one
  have hsum : f32Units 0x40000000#32 + f32Units (f32Neg (f32Div k 0x3F800000#32 v)) ≠ 0 := by
    rw [f32Units_neg]
    omega
  rw [limKnee, f32Div_neg_right rfl hv hne, f32Sub_finite rfl (by simpa using hfin), f32Sub_finite rfl hfin,
    f32AddFinite_neg_neg hsum]

end above

theorem lim_of_one_lt (k : Nat) {v : F32} (h : f32Lt 0x3F800000#32 v = true) :
    lim (f32Num k) v = limKnee k v := by
  rw [lim_f32, if_pos h]

theorem lim_of_nan (k : Nat) {v : F32} (h : f32IsNaN v = true) : lim (f32Num k) v = v := by
  simp [lim_f32, f32Lt, f32Ordered, h]

theorem lim_of_within (k : Nat) {v : F32} (h : Within 0x3F800000#32 v) : lim (f32Num k) v = v := by
  have hup : ¬ f32Lt 0x3F800000#32 v = true := fun hlt => not_f32Le_of_lt hlt h.2
  have hlo : ¬ f32Lt v (f32Neg 0x3F800000#32) = true := fun hlt => not_f32Le_of_lt hlt h.1
  rw [lim_f32, if_neg hup, if_neg hlo]

theorem one_lt_neg_iff (v : F32) :
    f32Lt 0x3F800000#32 (f32Neg v) = true ↔ f32Lt v (f32Neg 0x3F800000#32) = true := by
  rw [← f32Lt_neg_neg, f32Neg_neg]

theorem lim_of_lt_neg_one (k : Nat) {v : F32} (h : f32Lt v (f32Neg 0x3F800000#32) = true) :
    lim (f32Num k) v = f32Neg (limKnee k (f32Neg v)) := by
  have hnot : ¬ f32Lt 0x3F800000#32 v = true := fun hlt => not_lt_neg_one_of_one_lt hlt h
  rw [lim_f32, if_neg hnot, if_pos h, ← limKnee_neg ((one_lt_neg_iff v).mpr h), f32Neg_neg]

/-- The three branches of R128 for a number. -/
theorem lim_branches {v : F32} (h : f32IsNaN v = false) :
    f32Lt 0x3F800000#32 v = true ∨ f32Lt v (f32Neg 0x3F800000#32) = true ∨ Within 0x3F800000#32 v := by
  by_cases hup : f32Lt 0x3F800000#32 v = true
  · exact .inl hup
  · by_cases hlo : f32Lt v (f32Neg 0x3F800000#32) = true
    · exact .inr (.inl hlo)
    · exact .inr (.inr ⟨f32Le_of_not_lt rfl h hlo, f32Le_of_not_lt h rfl hup⟩)

theorem limKnee_within (k : Nat) {v : F32} (h : f32Lt 0x3F800000#32 v = true) :
    Within 0x40000000#32 (limKnee k v) :=
  ⟨f32Le_trans (by decide +kernel) (limKnee_inRange h).1, (limKnee_inRange h).2⟩

/-- R129 (d). -/
theorem lim_within (k : Nat) {v : F32} (h : f32IsNaN v = false) : Within 0x40000000#32 (lim (f32Num k) v) := by
  rcases lim_branches h with hv | hv | hv
  · rw [lim_of_one_lt k hv]
    exact limKnee_within k hv
  · rw [lim_of_lt_neg_one k hv]
    exact (limKnee_within k ((one_lt_neg_iff v).mpr hv)).neg
  · rw [lim_of_within k hv]
    exact hv.mono (by decide +kernel)

/-- R129 (c). -/
theorem lim_neg (k : Nat) {v : F32} (h : f32IsNaN v = false) :
    lim (f32Num k) (f32Neg v) = f32Neg (lim (f32Num k) v) := by
  rcases lim_branches h with hv | hv | hv
  · rw [lim_of_one_lt k hv, lim_of_lt_neg_one k (by rwa [f32Lt_neg_neg]), f32Neg_neg]
  · rw [lim_of_lt_neg_one k hv, lim_of_one_lt k ((one_lt_neg_iff v).mpr hv), f32Neg_neg]
  · rw [lim_of_within k hv, lim_of_within k hv.neg]

theorem within_one_of_nonneg {v : F32} (h0 : 0 ≤ f32Units v) (h : f32Le v 0x3F800000#32 = true) :
    Within 0x3F800000#32 v := by
  obtain ⟨hv, _, _⟩ := (f32Le_iff _ _).mp h
  have hone := f32Units_one
  refine ⟨(f32Le_iff _ _).mpr ⟨rfl, hv, ?_⟩, h⟩
  rw [f32Units_neg]
  omega

/-- R129 (e) on the right half: the identity ends at 1, where the knee starts. -/
theorem lim_mono_of_nonneg (k : Nat) {v w : F32} (h : f32Le v w = true) (h0 : 0 ≤ f32Units v) :
    f32Le (lim (f32Num k) v) (lim (f32Num k) w) = true := by
  obtain ⟨hv, hw, hle⟩ := (f32Le_iff v w).mp h
  by_cases hv1 : f32Lt 0x3F800000#32 v = true
  · rw [lim_of_one_lt k hv1, lim_of_one_lt k (f32Lt_of_lt_of_le hv1 h)]
    exact limKnee_mono hv1 h
  · have hle1 := f32Le_of_not_lt hv rfl hv1
    rw [lim_of_within k (within_one_of_nonneg h0 hle1)]
    by_cases hw1 : f32Lt 0x3F800000#32 w = true
    · rw [lim_of_one_lt k hw1]
      exact f32Le_trans hle1 (limKnee_inRange hw1).1
    · rw [lim_of_within k (within_one_of_nonneg (h0.trans hle) (f32Le_of_not_lt hw rfl hw1))]
      exact h

/-- R129 (e) on the left half, by oddness. -/
theorem lim_mono_of_nonpos (k : Nat) {v w : F32} (h : f32Le v w = true) (h0 : f32Units w ≤ 0) :
    f32Le (lim (f32Num k) v) (lim (f32Num k) w) = true := by
  obtain ⟨hv, hw, _⟩ := (f32Le_iff v w).mp h
  rw [← f32Le_neg_neg, ← lim_neg k hv, ← lim_neg k hw]
  exact lim_mono_of_nonneg k (by rwa [f32Le_neg_neg]) (by rw [f32Units_neg]; omega)

/-- R129 (e): the two halves meet at +0.0. -/
theorem lim_mono (k : Nat) {v w : F32} (h : f32Le v w = true) :
    f32Le (lim (f32Num k) v) (lim (f32Num k) w) = true := by
  obtain ⟨hv, hw, _⟩ := (f32Le_iff v w).mp h
  have hzero : f32Units 0x00000000#32 = 0 := rfl
  rcases le_total 0 (f32Units v) with hv0 | hv0
  · exact lim_mono_of_nonneg k h hv0
  · rcases le_total (f32Units w) 0 with hw0 | hw0
    · exact lim_mono_of_nonpos k h hw0
    · exact f32Le_trans (b := lim (f32Num k) 0x00000000#32)
        (lim_mono_of_nonpos k ((f32Le_iff _ _).mpr ⟨hv, rfl, hv0⟩) hzero.le)
        (lim_mono_of_nonneg k ((f32Le_iff _ _).mpr ⟨rfl, hw, hw0⟩) hzero.ge)

/-- R129 (b): 2 - 1/2, exactly. -/
theorem lim_two (k : Nat) : lim (f32Num k) 0x40000000#32 = 0x3FC00000#32 := by
  have hhalf : f32Div k 0x3F800000#32 0x40000000#32 = 0x3F000000#32 := by
    rw [f32Div_finite rfl rfl rfl]
    decide +kernel
  rw [lim_of_one_lt k (by decide +kernel), limKnee, hhalf, f32Sub_finite rfl rfl]
  decide +kernel

/-- R129 (e): the pattern after 1.0 is kept. -/
theorem lim_above_one (k : Nat) : lim (f32Num k) 0x3F800001#32 = 0x3F800001#32 := by
  have hrec : f32Div k 0x3F800000#32 0x3F800001#32 = 0x3F7FFFFE#32 := by
    rw [f32Div_finite rfl rfl rfl]
    decide +kernel
  rw [lim_of_one_lt k (by decide +kernel), limKnee, hrec, f32Sub_finite rfl rfl]
  decide +kernel

/-- R129 (d). -/
theorem lim_infinity (k : Nat) : lim (f32Num k) 0x7F800000#32 = 0x40000000#32 := by
  rw [lim_of_one_lt k (by decide +kernel), limKnee, reciprocal_infinity, f32Sub_finite rfl rfl]
  decide +kernel

/-- Settles O38: by the branches of R128, with the knee between 1 and 2 and rising. -/
theorem limiterProperties : Obligations.LimiterProperties := fun k _ =>
  ⟨lim_of_within k, fun h => ⟨lim_within k h, lim_neg k h⟩, fun _ => lim_mono k, lim_of_nan k,
    lim_two k, lim_above_one k, lim_infinity k⟩

/-! ### The bounds of what a STEP stores and answers (43_saturator_limiter.md R131) -/

theorem sat_nan_or_within (k : Nat) (u : F32) :
    f32IsNaN (sat (f32Num k) u) = true ∨ Within 0x3F800000#32 (sat (f32Num k) u) := by
  cases h : f32IsNaN u with
  | true => exact .inl (sat_of_nan k h).isNaN
  | false => exact .inr (sat_within k h)

theorem lim_nan_or_within (k : Nat) (v : F32) :
    f32IsNaN (lim (f32Num k) v) = true ∨ Within 0x40000000#32 (lim (f32Num k) v) := by
  cases h : f32IsNaN v with
  | true => exact .inl (by rwa [lim_of_nan k h])
  | false => exact .inr (lim_within k h)

/-- Y_OUT after the pipeline is a value of the limiter. -/
theorem stepped_yOut {α : Type} [DecidableEq α] (O : Nat → Numerics α) (c : Config) (b : BlockState α) :
    (stepped O c b).yOut = lim (O 7) (stepped O c b).dcY1 :=
  conditionOutput_yOut O c _ _

/-- The word a STEP writes is the driven sample: of the state this asks nothing but the canonical form of DL. -/
theorem delayWord_stepped_written {s : State} (h : Memory.wf 0x00000000#32 s.cfg.n s.dl = true) :
    delayWord (stepped (drawsFrom s) s.cfg s.toBlockState) s.wrIdx.toNat =
      drivenSample (f32Num (s.draws + 1)) s.toBlockState := by
  rw [← zero_f32 0] at h
  rw [delayWord, stepped_dl]
  exact Memory.read_write_same _ _ h

/-- Settles O35: the stored word is a value of the saturator and Y_OUT one of the limiter, which ROUTE keeps. -/
theorem outputBounded : Obligations.OutputBounded := by
  intro s _ hidx hmem
  have hblock := stepBlock_eq_stepped (O := drawsFrom s) hidx
  have hy : f32IsNaN (stepped (drawsFrom s) s.cfg s.toBlockState).yOut = true ∨
      Within 0x40000000#32 (stepped (drawsFrom s) s.cfg s.toBlockState).yOut := by
    rw [stepped_yOut]
    exact lim_nan_or_within (s.draws + 7) _
  refine ⟨⟨_, exec_step_of_some hblock, ?_, ?_⟩, _, exec_tick_of_some hblock, ?_⟩
  · simp only [State.respond_toBlockState, State.drew_toBlockState, State.withBlock_toBlockState,
      delayWord_stepped_written hmem]
    exact sat_nan_or_within _ _
  · simpa using hy
  · simpa using hy

end Sys2Proof.Machine

namespace Sys2Proof.Machine

/-! ### The tables of values (43_saturator_limiter.md R127, R130, 44_flutter_modulator.md R139, R141,
42_tone_filter_chain.md R116) -/

/-- Settles O39: the coefficient at HP_HZ is G_B, every other row an evaluation on closed patterns. -/
theorem functionValues : Obligations.FunctionValues := by
  refine ⟨?sat, ?lim, ?waveforms, ?mixOfOpposites, ?mixOfFractions, ?wholeOffset, ?coefAtZero, ?coefAtHp,
    ?coefAtMax⟩
  case coefAtHp => simpa only [gB, hpHz_f32] using gB_default_f32 0
  all_goals decide +kernel

end Sys2Proof.Machine

namespace Sys2Proof.Machine

/-! ### One rounding of an exact result that is representable, or bounded by a value (40_numerics.md R91) -/

/-- NUM-ROUND-MONO: rounding is the identity on representable values. -/
theorem PrimitiveResult.exact {q : ℚ} {r w : F32} (h : PrimitiveResult q r)
    (hw : f32Finite w = true ∧ f32Value w = q) : f32Finite r = true ∧ f32Value r = q := by
  obtain ⟨hfin, rfl⟩ := hw
  have hunits : f32Units r = f32Units w := h.units.trans (f32Units_ofRat_f32Value hfin)
  exact ⟨f32Finite_of_natAbs_le (by rw [hunits]) hfin, (f32Value_inj r w).mpr hunits⟩

/-- NUM-ROUND-MONO: rounding does not carry an exact result past a finite bound. -/
theorem PrimitiveResult.within {q : ℚ} {r w : F32} (h : PrimitiveResult q r) (hw : f32Finite w = true)
    (hq : |q| ≤ f32Value w) : Within w r := by
  obtain ⟨hlo, hhi⟩ := abs_le.mp hq
  have hnum := f32IsNaN_of_finite hw
  have hlower := f32Units_ofRat_mono hlo
  have hupper := f32Units_ofRat_mono hhi
  rw [f32Units_ofRat_neg] at hlower
  rw [← h.units, f32Units_ofRat_f32Value hw] at hlower hupper
  exact ⟨(f32Le_iff _ _).mpr ⟨by simpa using hnum, h.isNumber, by simpa using hlower⟩,
    (f32Le_iff _ _).mpr ⟨h.isNumber, hnum, hupper⟩⟩

theorem PrimitiveResult.within_one {q : ℚ} {r : F32} (h : PrimitiveResult q r) (hq : |q| ≤ 1) :
    Within 0x3F800000#32 r := by
  have hone : f32Value 0x3F800000#32 = 1 := by rw [f32Value, f32Units_one]; norm_num
  exact h.within rfl (hq.trans_eq hone.symm)

/-! ### The waveforms (44_flutter_modulator.md R136, R137) -/

/-- A 24-bit whole number over a power of two is its own literal. -/
theorem f32Lit_dyadic_exact {m e : Nat} (hm : m < 2 ^ 24) (he : e ≤ 24) :
    f32Finite (f32Lit m (2 ^ e)) = true ∧ f32Value (f32Lit m (2 ^ e)) = (m : ℚ) / 2 ^ e := by
  obtain ⟨low, hlow, hl⟩ := exists_lowUnits_eq (149 - e) m hm
  have hunits : m * 2 ^ 149 = lowUnits low * 2 ^ e := by
    rw [hlow, mul_assoc, ← pow_add, Nat.sub_add_cancel (by omega)]
  simpa using f32Lit_exact (Nat.two_pow_pos e) (show low < 0x7F800000 by omega) hunits

theorem f32Lit_half : f32Finite (f32Lit 1 2) = true ∧ f32Value (f32Lit 1 2) = 1 / 2 := by
  simpa using f32Lit_dyadic_exact (m := 1) (e := 1) (by decide) (by decide)

/-- NUM-POW2: a power of two times a phase fraction is exact, also at 0. -/
theorem f32Mul_twoPow_frac24 (k : Nat) {c m s : Nat} (hc : c = 2 ^ s) (hs : s ≤ 24) (hm : m < 2 ^ 24) :
    f32Finite (f32Mul k (f32Lit c 1) (f32Lit m 16777216)) = true ∧
    f32Value (f32Mul k (f32Lit c 1) (f32Lit m 16777216)) = c * ((m : ℚ) / 2 ^ 24) := by
  obtain ⟨hcf, hcv⟩ := f32Lit_whole_exact (hc.trans_le (Nat.pow_le_pow_right Nat.two_pos hs))
  obtain ⟨hmf, hmv⟩ := f32Lit_dyadic_exact hm le_rfl
  obtain ⟨hwf, hwv⟩ := f32Lit_dyadic_exact hm (Nat.sub_le 24 s)
  have hmul := PrimitiveResult.mul k _ _ hcf hmf
  rw [hcv, hmv] at hmul
  refine hmul.exact ⟨hwf, hwv.trans ?_⟩
  rw [hc, pow_sub₀ _ two_ne_zero hs]
  push_cast
  field_simp

/-- The distance of a half-cycle position from the end of the half cycle is exact. -/
theorem f32Sub_half_frac24 (k : Nat) {m : Nat} (hm : m ≤ 2 ^ 23) :
    f32Finite (f32Sub k (f32Lit 1 2) (f32Lit m 16777216)) = true ∧
    f32Value (f32Sub k (f32Lit 1 2) (f32Lit m 16777216)) = 1 / 2 - (m : ℚ) / 2 ^ 24 := by
  obtain ⟨hhf, hhv⟩ := f32Lit_half
  obtain ⟨hmf, hmv⟩ := f32Lit_dyadic_exact (m := m) (by omega) (le_refl 24)
  obtain ⟨hwf, hwv⟩ := f32Lit_dyadic_exact (m := 2 ^ 23 - m) (by omega) (le_refl 24)
  have hsub := PrimitiveResult.sub k _ _ hhf hmf
  rw [hhv, hmv] at hsub
  refine hsub.exact ⟨hwf, hwv.trans ?_⟩
  rw [Nat.cast_sub hm]
  norm_num [sub_div]

/-- `h` of R136 at the half-cycle position `m / 2^24`. -/
def parabolicArc (k m : Nat) : F32 :=
  f32Mul k (f32Mul k (f32Lit 16 1) (f32Lit m 16777216)) (f32Sub k (f32Lit 1 2) (f32Lit m 16777216))

theorem wavePar_f32 (k : Nat) (ph : Word) : wavePar (f32Num k) ph =
    if ph.getLsbD 31 then f32Neg (parabolicArc k (ph.extractLsb' 8 23).toNat)
    else parabolicArc k (ph.extractLsb' 8 23).toNat := rfl

/-- Both factors are exact, and `16 q (1/2 - q)` is at most 1, its value at `q = 1/4`. -/
theorem parabolicArc_within (k : Nat) {m : Nat} (hm : m ≤ 2 ^ 23) :
    Within 0x3F800000#32 (parabolicArc k m) := by
  obtain ⟨hsf, hsv⟩ := f32Mul_twoPow_frac24 k (c := 16) (s := 4) rfl (by decide) (show m < 2 ^ 24 by omega)
  obtain ⟨hdf, hdv⟩ := f32Sub_half_frac24 k hm
  refine (PrimitiveResult.mul k _ _ hsf hdf).within_one ?_
  have hpos : (0 : ℚ) ≤ m / 2 ^ 24 := by positivity
  have hhalf : (m : ℚ) / 2 ^ 24 ≤ 1 / 2 := by
    have hm' : (m : ℚ) ≤ 2 ^ 23 := by exact_mod_cast hm
    linarith
  rw [hsv, hdv, Nat.cast_ofNat]
  generalize (m : ℚ) / 2 ^ 24 = q at hpos hhalf ⊢
  rw [abs_of_nonneg (mul_nonneg (by linarith) (by linarith))]
  linarith [sq_nonneg (4 * q - 1)]

/-- R140 (a) for `wave_par`. -/
theorem wavePar_within (k : Nat) (ph : Word) : Within 0x3F800000#32 (wavePar (f32Num k) ph) := by
  have harc := parabolicArc_within k (ph.extractLsb' 8 23).isLt.le
  rw [wavePar_f32]
  split
  · exact harc.neg
  · exact harc

/-- The quarter of the cycle is the whole part of four times the phase. -/
theorem phase_quarter (ph : Word) :
    (ph.extractLsb' 30 2).toNat = (ph.extractLsb' 8 24).toNat / 2 ^ 22 := by
  have := ph.isLt
  simp only [BitVec.extractLsb'_toNat, Nat.shiftRight_eq_div_pow]
  omega

theorem waveTri_f32 (k : Nat) (ph : Word) : waveTri (f32Num k) ph =
    let t := f32Mul k (f32Lit 4 1) (f32Lit (ph.extractLsb' 8 24).toNat 16777216)
    if ph.extractLsb' 30 2 = 0b00#2 then t
    else if ph.extractLsb' 30 2 = 0b11#2 then f32Sub k t (f32Lit 4 1)
    else f32Sub k (f32Lit 2 1) t := rfl

/-- R140 (a) for `wave_tri`: four times the phase is exact, and its whole part chooses the branch. -/
theorem waveTri_within (k : Nat) (ph : Word) : Within 0x3F800000#32 (waveTri (f32Num k) ph) := by
  have hm := (ph.extractLsb' 8 24).isLt
  simp only [waveTri_f32, ← BitVec.toNat_inj, phase_quarter, BitVec.toNat_ofNat, Nat.reducePow, Nat.reduceMod]
  generalize (ph.extractLsb' 8 24).toNat = m at hm ⊢
  obtain ⟨h4f, h4v⟩ := f32Lit_whole_exact (m := 4) (by decide)
  obtain ⟨h2f, h2v⟩ := f32Lit_whole_exact (m := 2) (by decide)
  obtain ⟨hpf, hpv⟩ := f32Lit_dyadic_exact hm le_rfl
  obtain ⟨htf, htv⟩ := f32Mul_twoPow_frac24 k (c := 4) (s := 2) rfl (by decide) hm
  split_ifs with hrising hlast
  · have hle : (m : ℚ) ≤ 2 ^ 22 := by exact_mod_cast (show m ≤ 2 ^ 22 by omega)
    refine (PrimitiveResult.mul k _ _ h4f hpf).within_one ?_
    rw [h4v, hpv, Nat.cast_ofNat, abs_of_nonneg (by positivity)]
    linarith
  · have hge : (3 * 2 ^ 22 : ℚ) ≤ m := by exact_mod_cast (show 3 * 2 ^ 22 ≤ m by omega)
    have hlt : (m : ℚ) < 2 ^ 24 := by exact_mod_cast hm
    refine (PrimitiveResult.sub k _ _ htf h4f).within_one ?_
    rw [htv, h4v, Nat.cast_ofNat, abs_le]
    constructor <;> linarith
  · have hge : (2 ^ 22 : ℚ) ≤ m := by exact_mod_cast (show 2 ^ 22 ≤ m by omega)
    have hle : (m : ℚ) ≤ 3 * 2 ^ 22 := by exact_mod_cast (show m ≤ 3 * 2 ^ 22 by omega)
    refine (PrimitiveResult.sub k _ _ h2f htf).within_one ?_
    rw [h2v, htv, Nat.cast_ofNat, Nat.cast_ofNat, abs_le]
    constructor <;> linarith

/-! ### The mix and the offset (44_flutter_modulator.md R138, R139) -/

theorem flutterMix_f32 (k : Nat) (a b : F32) : flutterMix (f32Num k) a b =
    f32Div k (f32Add k (f32Add k a a) b) 0x40400000#32 := by
  rw [← satEdge_f32 k]
  rfl

/-- R140 (a) for the mix: the weighted sum is at most 3. -/
theorem flutterMix_within (k : Nat) {a b : F32} (ha : Within 0x3F800000#32 a)
    (hb : Within 0x3F800000#32 b) : Within 0x3F800000#32 (flutterMix (f32Num k) a b) := by
  obtain ⟨hfin, hsum⟩ := (ha.atMost_one.add ha.atMost_one (k := k) (by decide)).add hb.atMost_one
    (k := k) (by decide)
  have hthree : f32Value 0x40400000#32 = 3 := by
    have hlit : f32Lit 3 1 = 0x40400000#32 := satEdge_f32 k
    simpa [hlit] using (f32Lit_whole_exact (m := 3) (by decide)).2
  rw [flutterMix_f32]
  refine (PrimitiveResult.div k _ _ hfin rfl (by rw [hthree]; norm_num)).within_one ?_
  rw [hthree, abs_div, abs_of_pos (by norm_num : (0 : ℚ) < 3), div_le_one (by norm_num)]
  exact_mod_cast hsum

/-- A finite factor that is not negative bounds its product with a value in [-1, 1]. -/
theorem f32Mul_within {k : Nat} {d v : F32} (hd : f32Finite d = true) (hd0 : 0 ≤ f32Value d)
    (hv : Within 0x3F800000#32 v) : Within d (f32Mul k d v) := by
  obtain ⟨hvf, hv1⟩ := hv.atMost_one
  refine (PrimitiveResult.mul k d v hd hvf).within hd ?_
  rw [abs_mul, abs_of_nonneg hd0]
  exact mul_le_of_le_one_right hd0 (by exact_mod_cast hv1)

/-- R140 (a) for the offset. -/
theorem flutterOffset_within (k : Nat) {b : BlockState F32}
    (h : InRange 0x00000000#32 0x42700000#32 b.flutDepth) :
    Within b.flutDepth (flutterOffset (f32Num k) b) := by
  obtain ⟨_, _, hle⟩ := (f32Le_iff _ _).mp h.1
  have hdepth : 0 ≤ f32Value b.flutDepth := f32Value_posZero.ge.trans ((f32Value_le_iff _ _).mpr hle)
  exact f32Mul_within (h.finite rfl rfl) hdepth
    (flutterMix_within k (wavePar_within k b.phA) (waveTri_within k b.phB))

/-- Settles O42: rounding once does not carry an exact result past 1 or past the depth. -/
theorem flutterBounded : Obligations.FlutterBounded := fun k =>
  ⟨fun ph => ⟨wavePar_within k ph, waveTri_within k ph⟩, fun _ _ => flutterMix_within k,
    fun _ => flutterOffset_within k⟩

end Sys2Proof.Machine

namespace Sys2Proof.Machine

/-! ### ROUTE (45_feedback_router.md R145 to R151) -/

/-- STATUS after ROUTE from `status`, with this source and product (45_feedback_router.md R149). -/
def routeStatus (src fb : F32) (status : BitVec 3) : BitVec 3 :=
  if f32Finite src = true ∧ f32Finite fb = true then status else raiseFlag .nonfinite status

/-- The state ROUTE leaves when the mode gives this source and gain. -/
def State.afterRoute (s : State) (src g : F32) : State :=
  { s with
    fb := f32Mul s.draws src g
    status := routeStatus src (f32Mul s.draws src g) s.status
    draws := s.draws + 1
    rsp := some (f32Mul s.draws src g) }

theorem routeStatus_of_finite {src fb : F32} (hsrc : f32Finite src = true) (hfb : f32Finite fb = true)
    (v : BitVec 3) : routeStatus src fb v = v :=
  if_pos ⟨hsrc, hfb⟩

theorem routeBlock_status_f32 (k : Nat) (b : BlockState F32) : (routeBlock (f32Num k) b).status =
    routeStatus (routeSource b) (f32Mul k (routeSource b) (routeGain (f32Num k) b)) b.status := by
  rw [routeBlock_status, routeStatus, f32Num_fmul, routeNonfinite, f32Num_finite]
  cases f32Finite (routeSource b) <;>
    cases f32Finite (f32Mul k (routeSource b) (routeGain (f32Num k) b)) <;> rfl

/-- The one law of ROUTE: it always completes, and writes what the mode's source and gain give. The gain
takes no draw. -/
theorem exec_route (s : State) :
    exec .route s =
      .next (s.afterRoute (routeSource s.toBlockState) (routeGain builtNum s.toBlockState)) := by
  have hblock := routeBlock_eq (f32Num s.draws) s.toBlockState
  rw [routeBlock_fb, routeBlock_status_f32] at hblock
  rw [exec, execRoute, routeState, hblock]
  rfl

/-- Settles O22: the source and the gain of each mode are those of `exec_route`. -/
theorem routeByMode : Obligations.RouteByMode := by
  intro s src g hforward hreverse hfreeze
  have hmode : src = routeSource s.toBlockState ∧ g = routeGain builtNum s.toBlockState := by
    rw [routeSource, routeGain]
    cases hm : s.mode with
    | forward => exact hforward hm
    | reverse => exact hreverse hm
    | freeze => simpa only [builtNum_eq, freezeCorr_f32] using hfreeze hm
  obtain ⟨rfl, rfl⟩ := hmode
  exact exec_route s

/-! The draw number reaches a primitive's result only as a NaN's pattern (40_numerics.md R79). -/

theorem orNaN_eq_or_nan (k k' : Nat) (op : PrimOp) (a b : F32) (r : Option F32) :
    orNaN k' op a b r = orNaN k op a b r ∨
      (f32IsNaN (orNaN k' op a b r) = true ∧ f32IsNaN (orNaN k op a b r) = true) := by
  rcases orNaN_cases k op a b r with ⟨hquiet, ha | hb | rfl⟩ | ⟨ha, hb, hr⟩
  · exact .inr ⟨(orNaN_of_nan (.inl ha)).isNaN, hquiet.isNaN⟩
  · exact .inr ⟨(orNaN_of_nan (.inr hb)).isNaN, hquiet.isNaN⟩
  · exact .inr ⟨(orNaN_none_isQuiet k' op a b).isNaN, hquiet.isNaN⟩
  · left
    rw [hr, orNaN_of_some ha hb, orNaN_of_some ha hb]

theorem f32Mul_eq_or_nan (k k' : Nat) (a b : F32) : f32Mul k' a b = f32Mul k a b ∨
    (f32IsNaN (f32Mul k' a b) = true ∧ f32IsNaN (f32Mul k a b) = true) :=
  orNaN_eq_or_nan k k' .mul a b (f32Product a b)

theorem f32Finite_of_isNaN {a : F32} (h : f32IsNaN a = true) : f32Finite a = false := by
  by_contra hfin
  rw [Bool.not_eq_false] at hfin
  exact absurd (h.symm.trans (f32IsNaN_of_finite hfin)) (by decide)

theorem f32Finite_mul_draw (k k' : Nat) (a b : F32) :
    f32Finite (f32Mul k' a b) = f32Finite (f32Mul k a b) := by
  rcases f32Mul_eq_or_nan k k' a b with h | ⟨h', h⟩
  · rw [h]
  · rw [f32Finite_of_isNaN h', f32Finite_of_isNaN h]

/-- The flag is sticky, and two products of one class ask for it alike. -/
theorem routeStatus_idem {src fb fb' : F32} (h : f32Finite fb' = f32Finite fb) (v : BitVec 3) :
    routeStatus src fb' (routeStatus src fb v) = routeStatus src fb v := by
  unfold routeStatus
  rw [h]
  split
  · rfl
  · exact raiseFlag_idem .nonfinite v

/-- A second ROUTE by the same source and gain keeps the spec's state, but for FB. -/
theorem State.afterRoute_afterRoute (s : State) (src g : F32) :
    { ((s.afterRoute src g).afterRoute src g).toBlockState with fb := (s.afterRoute src g).fb } =
      (s.afterRoute src g).toBlockState := by
  have hstatus := routeStatus_idem (src := src) (f32Finite_mul_draw s.draws (s.draws + 1) src g) s.status
  simp only [State.afterRoute, hstatus]

/-- Settles O23: neither the source nor the gain is FB, so both ROUTEs multiply the same two. -/
theorem routeIdempotent : Obligations.RouteIdempotent := fun s =>
  ⟨_, _, exec_route s, exec_route _, fun v => exec_route { s with fb := v },
    f32Mul_eq_or_nan s.draws (s.draws + 1) _ _, s.afterRoute_afterRoute _ _⟩

/-! The bound of R150. -/

theorem Within.abs_value_le {b v : F32} (h : Within b v) : |f32Value v| ≤ f32Value b := by
  obtain ⟨_, _, hlo⟩ := (f32Le_iff _ _).mp h.1
  obtain ⟨_, _, hhi⟩ := (f32Le_iff _ _).mp h.2
  rw [← f32Value_le_iff, f32Value_neg] at hlo
  exact abs_le.mpr ⟨hlo, (f32Value_le_iff _ _).mpr hhi⟩

theorem InRange.within {hi v : F32} (h : InRange 0x00000000#32 hi v) : Within hi v := by
  obtain ⟨_, hnum, hlo⟩ := (f32Le_iff _ _).mp h.1
  obtain ⟨_, hhi, hle⟩ := (f32Le_iff _ _).mp h.2
  have hzero : f32Units 0x00000000#32 = 0 := by decide
  exact ⟨(f32Le_iff _ _).mpr ⟨by simpa using hhi, hnum, by rw [f32Units_neg]; omega⟩, h.2⟩

/-- FREEZE_CORR is a legal gain too, so the gain is legal in every mode. -/
theorem routeGain_inRange {b : BlockState F32} (h : InRange 0x00000000#32 0x3F99999A#32 b.fbGain) :
    InRange 0x00000000#32 0x3F99999A#32 (routeGain builtNum b) := by
  unfold routeGain
  cases b.mode with
  | forward => exact h
  | reverse => exact h
  | freeze =>
    have hcorr : InRange 0x00000000#32 0x3F99999A#32 0x3F59999A#32 :=
      ⟨by decide +kernel, by decide +kernel⟩
    simpa only [builtNum_eq, freezeCorr_f32] using hcorr

theorem routeSource_of_not_reverse {α : Type} {b : BlockState α} (h : b.mode ≠ .reverse) :
    routeSource b = b.yOut := by
  unfold routeSource
  cases hm : b.mode with
  | forward => rfl
  | reverse => exact absurd hm h
  | freeze => rfl

/-- 2.4 is the exact product of 2 and FB_MAX, as patterns. -/
theorem f32Value_two_mul_fbMax :
    f32Value 0x40000000#32 * f32Value 0x3F99999A#32 = f32Value 0x4019999A#32 := by
  have hunits : f32Units 0x4019999A#32 = 2 * f32Units 0x3F99999A#32 := by decide +kernel
  rw [f32Value, f32Value, f32Value, f32Units_two, f32Units_one, hunits]
  push_cast
  ring

/-- R150: a sample in [-2, 2] times a legal gain. -/
theorem f32Mul_within_feedback (k : Nat) {y g : F32} (hy : Within 0x40000000#32 y)
    (hg : Within 0x3F99999A#32 g) : Within 0x4019999A#32 (f32Mul k y g) := by
  refine (PrimitiveResult.mul k y g (hy.finite rfl rfl) (hg.finite rfl rfl)).within rfl ?_
  calc |f32Value y * f32Value g| = |f32Value y| * |f32Value g| := abs_mul _ _
    _ ≤ f32Value 0x40000000#32 * f32Value 0x3F99999A#32 :=
        mul_le_mul hy.abs_value_le hg.abs_value_le (abs_nonneg _) ((abs_nonneg _).trans hy.abs_value_le)
    _ = f32Value 0x4019999A#32 := f32Value_two_mul_fbMax

/-- Settles O24: outside Reverse the source is Y_OUT, and both factors are finite, so no flag is raised. -/
theorem routeBound : Obligations.RouteBound := by
  intro s hmode hy hgain
  rw [← routeSource_of_not_reverse hmode] at hy
  have hfb := f32Mul_within_feedback s.draws hy (routeGain_inRange hgain).within
  exact ⟨_, exec_route s, hfb, routeStatus_of_finite (hy.finite rfl rfl) (hfb.finite rfl rfl) s.status⟩

end Sys2Proof.Machine

namespace Sys2Proof.Machine

/-! ### The state after a STEP and after a TICK (46_tape_head_step.md R155, R165)

`exec_step` and `exec_tick` say once what the two commands answer; the registers of the new state are those of
`stepped`. -/

/-- The machine after a STEP whose WR_IDX names a word of DL. -/
def State.afterStep (s : State) : State :=
  ((s.withBlock (stepped (drawsFrom s) s.cfg s.toBlockState)).drew stepDraws).respond
    (stepped (drawsFrom s) s.cfg s.toBlockState).yOut

theorem exec_step {s : State} (h : s.wrIdx.toNat < s.cfg.n) : exec .step s = .next s.afterStep :=
  exec_step_of_some (stepBlock_eq_stepped h)

/-- TICK is ROUTE on the state STEP left, with STEP's response (R165). -/
theorem exec_tick {s : State} (h : s.wrIdx.toNat < s.cfg.n) :
    exec .tick s = .next ((routeState s.afterStep).respond s.afterStep.yOut) :=
  exec_tick_of_some (stepBlock_eq_stepped h)

@[simp] theorem State.afterStep_toBlockState (s : State) :
    s.afterStep.toBlockState = stepped (drawsFrom s) s.cfg s.toBlockState := rfl

/-- The registers that a STEP reads or keeps (R155). -/
theorem stepped_sameControls (O : Nat → Numerics F32) (c : Config) (b : BlockState F32) :
    SameControls b (stepped O c b) := by
  constructor <;> simp [stepped, afterDelayStages]

section stepped

variable {α : Type} [DecidableEq α] (O : Nat → Numerics α) (c : Config) (b : BlockState α)

@[simp] theorem stepped_fb : (stepped O c b).fb = b.fb := by simp [stepped, afterDelayStages]

@[simp] theorem stepped_phA : (stepped O c b).phA = b.phA + b.lfoAInc := by
  simp [stepped, afterDelayStages]

@[simp] theorem stepped_phB : (stepped O c b).phB = b.phB + b.lfoBInc := by
  simp [stepped, afterDelayStages]

end stepped

/-- Settles O27: `exec_tick`, and the frame of ROUTE. -/
theorem tickIsStepThenRoute : Obligations.TickIsStepThenRoute := by
  refine ⟨by decide +kernel, decode_encode .tick, fun s h => ?_⟩
  refine ⟨_, _, exec_step h, rfl, exec_tick h, ?_, ?_, fun n => ⟨?_, ?_⟩⟩
  · simp
  · exact (stepped_sameControls _ _ _).revIn
  · simp
  · simp [delayWord]

/-! ### What a STEP stores (46_tape_head_step.md R158, R159; 41_delay_line.md R101) -/

/-- The gated input of a mode (R158), as a pattern. -/
theorem gatedInput_f32 (k : Nat) {b : BlockState F32} {x : F32}
    (hfreeze : b.mode = .freeze → x = 0x00000000#32) (hother : b.mode ≠ .freeze → x = b.xIn) :
    gatedInput (f32Num k) b = x := by
  unfold gatedInput
  cases hm : b.mode with
  | freeze => rw [hfreeze hm, zero_f32]
  | forward => exact (hother (by simp [hm])).symm
  | reverse => exact (hother (by simp [hm])).symm

/-- The driven and saturated sample (R159), as an equation of binary32. -/
theorem drivenSample_f32 (k : Nat) (b : BlockState F32) : drivenSample (f32Num k) b =
    sat (f32Num k) (f32Mul k 0x3FA66666#32 (f32Add k (gatedInput (f32Num k) b) b.fb)) := by
  rw [← drive_f32 k]
  rfl

/-- Every word of DL but the one at WR_IDX is as it was. -/
theorem delayWord_stepped_other (s : State) {a : Nat} (h : a ≠ s.wrIdx.toNat) :
    delayWord (stepped (drawsFrom s) s.cfg s.toBlockState) a = delayWord s.toBlockState a := by
  rw [delayWord, stepped_dl]
  exact Memory.read_write_other _ h

/-- Settles O25, register by register of `stepped`. -/
theorem stepWritesAndFrame : Obligations.StepWritesAndFrame := by
  intro s x hc hidx hmem hfreeze hother
  refine ⟨s.afterStep, exec_step hidx, ?phA, ?phB, ?wrIdx, ?stored, fun _ => delayWord_stepped_other s,
    stepped_sameControls _ _ _, ?fb, rfl, rfl, rfl⟩
  case phA => simp
  case phB => simp
  case wrIdx => simpa using advanceIndex_toNat hc s.wrIdx
  case fb => simp
  case stored =>
    rw [State.afterStep_toBlockState, delayWord_stepped_written hmem, drivenSample_f32,
      gatedInput_f32 _ hfreeze hother]

/-- Settles O36: both STEPs evaluated. -/
theorem firstStepExample : Obligations.FirstStepExample := by
  refine ⟨⟨_, exec_step (by decide), ?_⟩, _, exec_step (by decide), ?_⟩ <;> decide +kernel

/-! ### What a STEP does not read (46_tape_head_step.md R155, R158) -/

/-- STEP reads neither REV_IN nor FB_GAIN. -/
theorem stepped_withRevInFbGain (O : Nat → Numerics F32) (c : Config) (b : BlockState F32) (v g : F32) :
    stepped O c { b with revIn := v, fbGain := g } = { stepped O c b with revIn := v, fbGain := g } := by
  simp only [stepped, conditionOutput, raiseNonfiniteIf_eq]
  rfl

/-- In Freeze the gate is closed, and nothing else of STEP reads X_IN. -/
theorem stepped_withXIn_of_freeze (O : Nat → Numerics F32) (c : Config) {b : BlockState F32}
    (h : b.mode = .freeze) (v : F32) :
    stepped O c { b with xIn := v } = { stepped O c b with xIn := v } := by
  have hb : b = { b with mode := .freeze } := by rw [← h]
  rw [hb]
  simp only [stepped, conditionOutput, raiseNonfiniteIf_eq]
  rfl

/-- ROUTE does not read X_IN. -/
theorem routeBlock_withXIn (O : Numerics F32) (b : BlockState F32) (v : F32) :
    routeBlock O { b with xIn := v } = { routeBlock O b with xIn := v } := by
  simp only [routeBlock, raiseNonfiniteIf_eq]
  rfl

theorem State.afterStep_withRevInFbGain (s : State) (v g : F32) :
    State.afterStep { s with revIn := v, fbGain := g } =
      { s.afterStep with revIn := v, fbGain := g } :=
  congrArg (fun b => ((s.withBlock b).drew stepDraws).respond b.yOut)
    (stepped_withRevInFbGain (drawsFrom s) s.cfg s.toBlockState v g)

theorem State.afterStep_withXIn_of_freeze {s : State} (h : s.mode = .freeze) (v : F32) :
    State.afterStep { s with xIn := v } = { s.afterStep with xIn := v } :=
  congrArg (fun b => ((s.withBlock b).drew stepDraws).respond b.yOut)
    (stepped_withXIn_of_freeze (drawsFrom s) s.cfg h v)

theorem routeState_withXIn (s : State) (v : F32) :
    routeState { s with xIn := v } = { routeState s with xIn := v } :=
  congrArg (fun b => (s.withBlock b).drew 1) (routeBlock_withXIn (f32Num s.draws) s.toBlockState v)

/-- Settles O28: a STEP and a TICK of the changed state give the changed result. -/
theorem stepIgnoresUnreadRegisters : Obligations.StepIgnoresUnreadRegisters := by
  intro s v g h
  refine ⟨⟨_, exec_step h, ?_⟩, fun hmode => ⟨⟨_, exec_step h, ?_⟩, _, exec_tick h, ?_⟩⟩
  · rw [← State.afterStep_withRevInFbGain]
    exact exec_step h
  · rw [← State.afterStep_withXIn_of_freeze hmode]
    exact exec_step h
  · have htick := exec_tick (s := { s with xIn := v }) h
    rw [State.afterStep_withXIn_of_freeze hmode, routeState_withXIn] at htick
    exact htick

end Sys2Proof.Machine

namespace Sys2Proof.Machine

/-! ### The pipeline of a STEP (46_tape_head_step.md R157, R160 to R163)

The sample is read from the state STEP leaves: the filters change neither DL, WR_IDX nor CUR_DELAY. -/

section pipeline

variable {α : Type} [DecidableEq α] (O : Nat → Numerics α) (c : Config) (b : BlockState α)

/-- The sample a STEP reads (R160). -/
def sampleRead : α := dlRead (O 3) c (stepped O c b)

/-- Stage A of the tone filter in a STEP (R161): its memory and its output. -/
def stageA : α × α :=
  onepole (O 4) b.taY0 (coef (O 4) c b.toneHz) (sampleRead O c b) (b.filtCfg.getLsbD 0)

/-- Stage B of the tone filter in a STEP (R161), on the output of stage A. -/
def stageB : α × α :=
  onepole (O 5) b.tbY0 (gB (O 5) c) (stageA O c b).2 (b.filtCfg.getLsbD 1)

omit [DecidableEq α] in
theorem dlRead_conditionOutput (N : Numerics α) (r : α) :
    dlRead N c (conditionOutput O c b r) = dlRead N c b := by
  simp [dlRead, tap]

theorem stepped_eq :
    stepped O c b = conditionOutput O c (afterDelayStages O c b) (sampleRead O c b) := by
  rw [sampleRead, stepped, dlRead_conditionOutput]

theorem stepped_taY0 : (stepped O c b).taY0 = (stageA O c b).1 := by
  rw [stepped_eq, conditionOutput_taY0]
  rfl

theorem stepped_tbY0 : (stepped O c b).tbY0 = (stageB O c b).1 := by
  rw [stepped_eq, conditionOutput_tbY0]
  rfl

theorem stepped_dcX1 : (stepped O c b).dcX1 = (stageB O c b).2 := by
  rw [stepped_eq, conditionOutput_dcX1]
  rfl

theorem stepped_dcY1 : (stepped O c b).dcY1 =
    (O 6).fadd ((O 6).fsub (stageB O c b).2 b.dcX1) ((O 6).fmul (dcR (O 6)) b.dcY1) := by
  rw [← stepped_dcX1, stepped_eq, conditionOutput_dcY1]
  rfl

theorem stepped_status_eq : (stepped O c b).status =
    if stepNonfinite (O 7) (gatedInput (O 7) b) b.fb (stepped O c b).yOut
    then raiseFlag .nonfinite b.status else b.status := by
  rw [stepped_eq, conditionOutput_status]
  rfl

end pipeline

/-- `dl_read` (41_delay_line.md R105) in binary32: the four words around the delay i, its addresses counted
from w - i, and its fraction. -/
theorem dlRead_f32 (k : Nat) (c : Config) (b : BlockState F32) : dlRead (f32Num k) c b =
    hermite (f32Num k)
      (delayWord b (((b.wrIdx.toNat : Int) - f32FloorNat b.curDelay + 1) % c.n).toNat)
      (delayWord b (((b.wrIdx.toNat : Int) - f32FloorNat b.curDelay) % c.n).toNat)
      (delayWord b (((b.wrIdx.toNat : Int) - f32FloorNat b.curDelay - 1) % c.n).toNat)
      (delayWord b (((b.wrIdx.toNat : Int) - f32FloorNat b.curDelay - 2) % c.n).toNat)
      (f32Sub k b.curDelay (f32Lit (f32FloorNat b.curDelay) 1)) := by
  simp only [sub_sub, sub_add]
  rfl

/-- The target of the slew (R157) in binary32. -/
theorem stepTarget_f32 (k : Nat) (c : Config) (b : BlockState F32) (off : F32) :
    stepTarget (f32Num k) c b off =
      clampN (f32Num k) (f32Add k b.delayTarget off) 0x40000000#32 (f32Lit (c.n - 2) 1) := by
  rw [← dLo_f32 k]
  rfl

/-- The condition of R163 in binary32. -/
theorem stepNonfinite_f32 (k : Nat) (x fb y : F32) : stepNonfinite (f32Num k) x fb y =
    !decide (f32Finite x = true ∧ f32Finite fb = true ∧ f32Finite y = true) := by
  simp [stepNonfinite, Bool.and_assoc]

/-- STATUS after a STEP whose gated input is `x` (R163). -/
theorem afterStep_status (s : State) {x : F32} (hx : gatedInput (f32Num (s.draws + 7)) s.toBlockState = x) :
    s.afterStep.status =
      if f32Finite x = true ∧ f32Finite s.fb = true ∧ f32Finite s.afterStep.yOut = true then s.status
      else raiseFlag .nonfinite s.status := by
  have hstatus := stepped_status_eq (drawsFrom s) s.cfg s.toBlockState
  rw [drawsFrom, hx, stepNonfinite_f32] at hstatus
  rw [State.afterStep_toBlockState, hstatus]
  simp only [Bool.not_eq_true', decide_eq_false_iff_not, ite_not]

/-- Settles O26: the registers of `stepped`, each with the stage that writes it. -/
theorem stepPipeline : Obligations.StepPipeline := by
  intro s x hidx hfreeze hother
  refine ⟨s.afterStep, exec_step hidx, ⟨_, rfl, ?curDelay⟩, _,
    sampleRead (drawsFrom s) s.cfg s.toBlockState, (stageA (drawsFrom s) s.cfg s.toBlockState).2,
    (stageB (drawsFrom s) s.cfg s.toBlockState).2, rfl, dlRead_f32 _ _ _, ?stageA, ?stageB,
    stepped_dcX1 _ _ _, ?dcY1, stepped_yOut _ _ _, afterStep_status s (gatedInput_f32 _ hfreeze hother)⟩
  case curDelay =>
    rw [State.afterStep_toBlockState, stepped_curDelay]
    exact congrArg (slew (f32Num (s.draws + 2)) _ s.curDelay) (stepTarget_f32 s.draws _ _ _)
  case stageA => exact Prod.ext (stepped_taY0 _ _ _) rfl
  case stageB =>
    rw [← hpHz_f32 (s.draws + 5)]
    exact Prod.ext (stepped_tbY0 _ _ _) rfl
  case dcY1 =>
    rw [← dcR_f32 (s.draws + 6)]
    exact stepped_dcY1 _ _ _

end Sys2Proof.Machine

namespace Sys2Proof.Machine

/-! ### The coefficients of the tone filter (42_tone_filter_chain.md R116)

At a rate of at least 1 Hz no cutoff in use makes `coef` overflow. -/

/-- NUM-ROUND-MONO: rounding does not carry an exact result below a finite value. -/
theorem PrimitiveResult.le_value {q : ℚ} {r w : F32} (h : PrimitiveResult q r) (hw : f32Finite w = true)
    (hq : f32Value w ≤ q) : f32Value w ≤ f32Value r := by
  have hmono := f32Units_ofRat_mono hq
  rw [f32Units_ofRat_f32Value hw, ← h.units] at hmono
  exact (f32Value_le_iff w r).mpr hmono

/-- The ratio that `coef` forms of a cutoff of at most 147 times the rate. -/
theorem f32Div_cutoff_bounds (k : Nat) {hz fs : F32} (hrate : f32Finite fs = true) (hrate0 : 0 < f32Value fs)
    (hfin : f32Finite hz = true) (h0 : 0 ≤ f32Value hz) (h : f32Value hz ≤ 147 * f32Value fs) :
    AtMost 147 (f32Div k hz fs) ∧ 0 ≤ f32Value (f32Div k hz fs) := by
  have hquot := PrimitiveResult.div k hz fs hfin hrate hrate0.ne'
  have hnonneg : 0 ≤ f32Value hz / f32Value fs := div_nonneg h0 hrate0.le
  constructor
  · refine hquot.atMost (by decide) ?_
    rw [abs_of_nonneg hnonneg, div_le_iff₀ hrate0]
    exact_mod_cast h
  · rw [← f32Value_posZero] at hnonneg ⊢
    exact hquot.le_value rfl hnonneg

/-- K159 and a ratio add up, rounding included, to a positive number not below the ratio. -/
theorem finite_div_k159_add (k : Nat) {f : F32} (hf : AtMost 147 f) (hf0 : 0 ≤ f32Value f) :
    f32Finite (f32Div k f (f32Add k 0x3E22D0E5#32 f)) = true := by
  have hk : f32Finite 0x3E22D0E5#32 = true := rfl
  have hk1 : AtMost 1 0x3E22D0E5#32 := Within.atMost_one (by unfold Within InRange; decide +kernel)
  have hk0 : 0 < f32Value 0x3E22D0E5#32 := by
    rw [← f32Value_posZero, f32Value_lt_iff]
    decide +kernel
  have hsum := PrimitiveResult.add k 0x3E22D0E5#32 f hk hf.1
  have hsumfin := (hk1.add hf (k := k) (by decide)).1
  have hratio := hsum.le_value hf.1 (le_add_of_nonneg_left hk0.le)
  have hpos := hk0.trans_le (hsum.le_value hk (le_add_of_nonneg_right hf0))
  refine ((PrimitiveResult.div k f _ hf.1 hsumfin hpos.ne').atMost (m := 1) (by decide) ?_).1
  rw [abs_of_nonneg (div_nonneg hf0 hpos.le), div_le_iff₀ hpos]
  simpa using hratio

theorem finite_coef (k : Nat) {c : Config} {hz : F32} (hrate : f32Finite (sampleRate builtNum c) = true)
    (hrate0 : 0 < f32Value (sampleRate builtNum c)) (hfin : f32Finite hz = true) (h0 : 0 ≤ f32Value hz)
    (h : f32Value hz ≤ 147 * f32Value (sampleRate builtNum c)) :
    f32Finite (coef (f32Num k) c hz) = true := by
  obtain ⟨hf, hf0⟩ := f32Div_cutoff_bounds k hrate hrate0 hfin h0 h
  rw [coef, k159_f32]
  exact finite_div_k159_add k hf hf0

/-- HZ_MAX is at most the rate, since F_MAX is below 1. -/
theorem f32Le_hzMax_sampleRate {c : Config} (hrate : f32Finite (sampleRate builtNum c) = true) :
    f32Le (hzMax builtNum c) (sampleRate builtNum c) = true := by
  have hmax : f32Finite (fMax builtNum) = true := by decide +kernel
  have hmax1 : f32Units (fMax builtNum) ≤ 2 ^ 149 := by decide +kernel
  have hmul := f32Units_mul_of_le_one (k := 0) hmax hrate (f32Units_lit_nonneg _ _) hmax1
  exact (f32Le_iff _ _).mpr ⟨f32IsNaN_mul hmax hrate, f32IsNaN_lit _ _,
    (hmul.1 (f32Units_lit_nonneg _ _)).2⟩

/-! ### Zeros through the pipeline (46_tape_head_step.md R168 (d)) -/

theorem f32Add_zeros (k : Nat) : f32Add k 0x00000000#32 0x00000000#32 = 0x00000000#32 :=
  f32Add_zero_left rfl rfl (by decide)

theorem f32Sub_zeros (k : Nat) : f32Sub k 0x00000000#32 0x00000000#32 = 0x00000000#32 := by
  rw [f32Sub_finite rfl rfl, f32AddFinite_neg]

theorem f32Mul_isZero {k : Nat} {a : F32} (ha : f32Finite a = true) :
    f32IsZero (f32Mul k a 0x00000000#32) = true := by
  rw [f32Mul_zero_right ha rfl]
  cases f32Sign a <;> rfl

theorem f32Add_posZero_left {k : Nat} {z : F32} (hz : f32IsZero z = true) :
    f32Add k 0x00000000#32 z = 0x00000000#32 := by
  rcases (f32IsZero_iff z).mp hz with rfl | rfl <;> rw [f32Add_finite rfl rfl] <;> rfl

theorem AtMost.isZero {v : F32} (h : AtMost 0 v) : f32IsZero v = true := by
  have hvalue : f32Value v = f32Value 0x00000000#32 := by
    rw [f32Value_posZero, ← abs_nonpos_iff]
    exact_mod_cast h.2
  exact (f32Units_eq_zero_iff v).mp (((f32Value_inj _ _).mp hvalue).trans (by decide))

theorem onepole_zeros (k : Nat) {g : F32} (hg : f32Finite g = true) (hp : Bool) :
    onepole (f32Num k) 0x00000000#32 g 0x00000000#32 hp = (0x00000000#32, 0x00000000#32) := by
  simp only [onepole, f32Num_fadd, f32Num_fmul, f32Num_fsub, f32Sub_zeros,
    f32Add_posZero_left (f32Mul_isZero hg), ite_self]

/-- Every term of the interpolation of four zeros is a zero, and the last sum ends in +0.0. -/
theorem hermite_zeros (k : Nat) {f : F32} (hf : AtMost 1 f) :
    hermite (f32Num k) 0x00000000#32 0x00000000#32 0x00000000#32 0x00000000#32 f = 0x00000000#32 := by
  have hzero := AtMost.zero 0
  have hhalf : AtMost 1 0x3F000000#32 := Within.atMost_one (by unfold Within InRange; decide +kernel)
  have hv := hzero.sub hzero (k := k) (by decide)
  have hc := hv.mul hhalf (k := k) (by decide)
  have hw := hc.add hv (k := k) (by decide)
  have ha := (hw.add hv (k := k) (by decide)).add hc (k := k) (by decide)
  have hb := hw.add ha (k := k) (by decide)
  have hd := (ha.mul hf (k := k) (by decide)).sub hb (k := k) (by decide)
  have hslope : AtMost 0 (hermiteSlope k 0x00000000#32 0x00000000#32 0x00000000#32 0x00000000#32 f) :=
    (hd.mul hf (by decide)).add hc (by decide)
  rw [hermite_f32]
  exact f32Add_zero_left (hslope.mul hf (by decide)).isZero rfl (by decide)

/-! Delays in range, at rest. -/

theorem DelayInRange.pos {c : Config} {v : F32} (h : DelayInRange c v) : 0 < f32Units v := by
  obtain ⟨_, _, hle⟩ := (f32Le_iff _ _).mp h.1
  have hlo : 0 < f32Units (dLo builtNum) := by decide +kernel
  exact hlo.trans_le hle

theorem f32Sign_of_pos {v : F32} (h : 0 < f32Units v) : f32Sign v = false := by
  cases hs : f32Sign v with
  | false => rfl
  | true =>
    rw [f32Units, if_pos hs] at h
    omega

/-- The fraction with which a delay in range is read is at most 1 (40_numerics.md R82). -/
theorem DelayInRange.fraction_atMost {c : Config} (hc : c.legal = true) (k : Nat) {v : F32}
    (h : DelayInRange c v) : AtMost 1 (f32Sub k v (f32Lit (f32FloorNat v) 1)) := by
  obtain ⟨_, _, _, hn, _⟩ := (Config.legal_iff c).mp hc
  have hfloor := (h.floorNat hc).2
  have hfin := (h.finite hc).1
  obtain ⟨hle, hlt⟩ := f32FloorNat_bounds hfin (f32Sign_of_pos h.pos)
  obtain ⟨hwfin, hwvalue⟩ := f32Lit_whole_exact (m := f32FloorNat v) (by omega)
  refine (PrimitiveResult.sub k v _ hfin hwfin).atMost (by decide) ?_
  rw [hwvalue, abs_of_nonneg (by linarith), Nat.cast_one]
  linarith

theorem clampN_of_inRange (k : Nat) {lo hi v : F32} (h : InRange lo hi v) :
    clampN (f32Num k) v lo hi = v := by
  obtain ⟨_, _, hle⟩ := (f32Le_iff _ _).mp h.2
  have hlt : ¬ f32Lt hi v = true := fun hc => by
    obtain ⟨_, _, hgt⟩ := (f32Lt_iff _ _).mp hc
    omega
  rw [clampN_of_le h.1, if_neg hlt]

/-- An offset of either zero leaves the target where it is (46_tape_head_step.md R157). -/
theorem stepTarget_of_zero (k : Nat) {c : Config} (hc : c.legal = true) {b : BlockState F32} {off : F32}
    (h : DelayInRange c b.delayTarget) (hoff : f32IsZero off = true) :
    stepTarget (f32Num k) c b off = b.delayTarget := by
  have hfin := (h.finite hc).1
  have hne : f32IsZero b.delayTarget = false := by
    rw [← Bool.not_eq_true, ← f32Units_eq_zero_iff]
    exact h.pos.ne'
  have hsum : f32Add k b.delayTarget off = b.delayTarget := by
    rw [f32Add_finite hfin (f32Finite_of_isZero hoff), f32AddFinite_zero hfin hne hoff]
  rw [stepTarget, f32Num_fadd, hsum]
  exact clampN_of_inRange k h

/-! ### Silence in, silence out (46_tape_head_step.md R168 (d)) -/

section Silent

variable {b : BlockState F32} (h : Silent b)
include h

/-- The phases and the index are not part of being at rest. -/
theorem Silent.moved (phA phB wrIdx : Word) : Silent { b with phA := phA, phB := phB, wrIdx := wrIdx } :=
  ⟨h.xIn, h.fb, h.flutDepth, h.curDelay, h.yOut, h.taY0, h.tbY0, h.dcX1, h.dcY1, h.delay⟩

theorem Silent.gatedInput_eq (k : Nat) : gatedInput (f32Num k) b = 0x00000000#32 :=
  gatedInput_f32 k (fun _ => rfl) fun _ => h.xIn.symm

theorem Silent.drivenSample_eq (k : Nat) : drivenSample (f32Num k) b = 0x00000000#32 := by
  have hdrive : f32Mul k 0x3FA66666#32 0x00000000#32 = 0x00000000#32 := f32Mul_zero_right rfl rfl
  rw [drivenSample_f32, h.gatedInput_eq, h.fb, f32Add_zeros, hdrive, sat_zero]

/-- With no depth the offset is a zero, of whatever sign the waveforms give it. -/
theorem Silent.flutterOffset_isZero (k : Nat) :
    f32IsZero (flutterOffset (f32Num k) (lfoAdvance b)) = true := by
  have hdepth : InRange 0x00000000#32 0x42700000#32 (lfoAdvance b).flutDepth := by
    rw [lfoAdvance_flutDepth, h.flutDepth]
    unfold InRange
    decide +kernel
  have hoff := flutterOffset_within k hdepth
  rw [lfoAdvance_flutDepth, h.flutDepth] at hoff
  exact (AtMost.of_inRange hoff (AtMost.zero 0).neg (AtMost.zero 0)).isZero

/-- The canonical form lists no word of a silent memory. -/
theorem Silent.dl_eq_nil {c : Config} (hmem : Memory.wf (zero builtNum) c.n b.dl = true) : b.dl = [] :=
  Memory.ext_of_read hmem Memory.wf_nil fun a => (h.delay a).trans (zero_f32 0).symm

theorem Silent.dlRead_eq {c : Config} (hc : c.legal = true) (hcur : DelayInRange c b.curDelay) (k : Nat) :
    dlRead (f32Num k) c b = 0x00000000#32 := by
  rw [dlRead_f32]
  simp only [h.delay]
  exact hermite_zeros k (hcur.fraction_atMost hc k)

/-- The stages up to the read move the phases and WR_IDX and nothing else. -/
theorem Silent.afterDelayStages_eq {c : Config} (hc : c.legal = true) (hb : LegalBlock c b) (d : Nat) :
    afterDelayStages (fun j => f32Num (d + j)) c b =
      { b with
        phA := b.phA + b.lfoAInc
        phB := b.phB + b.lfoBInc
        wrIdx := advanceIndex c b.wrIdx } := by
  have hdl : b.dl.write (zero (f32Num (d + 1))) b.wrIdx.toNat 0x00000000#32 = b.dl := by
    rw [h.dl_eq_nil hb.memory, zero_f32, Memory.write, if_pos rfl]
  have htarget := stepTarget_of_zero (d + 0) hc (b := lfoAdvance b) hb.delayTarget
    (h.flutterOffset_isZero (d + 0))
  obtain ⟨_, _, hslew⟩ := slewNeverOvershoots (d + 2) c b.curDelay b.curDelay hc hb.curDelay hb.curDelay
  rw [lfoAdvance_delayTarget, ← h.curDelay] at htarget
  simp only [afterDelayStages, htarget, h.drivenSample_eq, hdl, dlSlew, lfoAdvance_curDelay, hslew]
  rfl

/-- The registers that the filters and the limiter read and write hold +0.0 already. -/
theorem Silent.zeros_eq : { b with
    fb := 0x00000000#32, yOut := 0x00000000#32, taY0 := 0x00000000#32, tbY0 := 0x00000000#32,
    dcX1 := 0x00000000#32, dcY1 := 0x00000000#32 } = b := by
  obtain ⟨-, hfb, -, -, hy, hta, htb, hx1, hy1, -⟩ := h
  cases b
  simp_all

/-- The filters and the limiter answer silence with silence, and no flag is raised. -/
theorem Silent.conditionOutput_eq {c : Config} (d : Nat)
    (htone : ∀ k, f32Finite (coef (f32Num k) c b.toneHz) = true)
    (hhp : ∀ k, f32Finite (gB (f32Num k) c) = true) :
    conditionOutput (fun j => f32Num (d + j)) c b 0x00000000#32 = b := by
  have hdc : f32Add (d + 6) 0x00000000#32 (f32Mul (d + 6) 0x3F7EB852#32 0x00000000#32) = 0x00000000#32 :=
    f32Add_posZero_left (f32Mul_isZero rfl)
  have hlim : lim (f32Num (d + 7)) 0x00000000#32 = 0x00000000#32 :=
    lim_of_within _ (by unfold Within InRange; decide +kernel)
  have hflag : stepNonfinite (f32Num (d + 7)) 0x00000000#32 0x00000000#32 0x00000000#32 = false := by
    rw [stepNonfinite_f32]
    rfl
  simp only [conditionOutput, toneStageA, toneStageB, dcBlock, h.taY0, h.tbY0, h.dcX1, h.dcY1, h.fb,
    h.gatedInput_eq, onepole_zeros _ (htone _), onepole_zeros _ (hhp _), dcR_f32, f32Num_fadd, f32Num_fsub,
    f32Num_fmul, f32Sub_zeros, hdc, hlim, hflag]
  exact h.zeros_eq

theorem Silent.stepped_eq {c : Config} (hc : c.legal = true) (hb : LegalBlock c b) (d : Nat)
    (htone : ∀ k, f32Finite (coef (f32Num k) c b.toneHz) = true)
    (hhp : ∀ k, f32Finite (gB (f32Num k) c) = true) :
    stepped (fun j => f32Num (d + j)) c b =
      { b with
        phA := b.phA + b.lfoAInc
        phB := b.phB + b.lfoBInc
        wrIdx := advanceIndex c b.wrIdx } := by
  have hmoved := h.moved (b.phA + b.lfoAInc) (b.phB + b.lfoBInc) (advanceIndex c b.wrIdx)
  rw [stepped, h.afterDelayStages_eq hc hb, hmoved.dlRead_eq hc hb.curDelay]
  exact hmoved.conditionOutput_eq d htone hhp

end Silent

/-- The cutoffs of both stages keep `coef` finite at a rate of at least 1 Hz (log entry 20). -/
theorem LegalState.finite_coefs {s : State} (hs : LegalState s)
    (h1 : f32Le 0x3F800000#32 (sampleRate builtNum s.cfg) = true) (k : Nat) :
    f32Finite (coef (f32Num k) s.cfg s.toneHz) = true ∧ f32Finite (gB (f32Num k) s.cfg) = true := by
  have hone : f32Value 0x3F800000#32 = 1 := by rw [f32Value, f32Units_one]; norm_num
  obtain ⟨hhpfin, hhp⟩ :
      f32Finite (hpHz (f32Num k)) = true ∧ f32Value (hpHz (f32Num k)) = (147 : Nat) :=
    f32Lit_whole_exact (by decide)
  obtain ⟨_, _, hrate⟩ := (f32Le_iff _ _).mp h1
  have hrate1 := hone.symm.trans_le ((f32Value_le_iff _ _).mpr hrate)
  have hrate0 : 0 < f32Value (sampleRate builtNum s.cfg) := one_pos.trans_le hrate1
  have htone : InRange (zero builtNum) (sampleRate builtNum s.cfg) s.toneHz :=
    ⟨hs.block.toneHz.1, f32Le_trans hs.block.toneHz.2 (f32Le_hzMax_sampleRate hs.rate)⟩
  have htonefin := htone.finite (by decide) hs.rate
  obtain ⟨_, _, hlo⟩ := (f32Le_iff _ _).mp htone.1
  obtain ⟨_, _, hhi⟩ := (f32Le_iff _ _).mp htone.2
  rw [← f32Value_le_iff] at hlo hhi
  rw [builtNum_eq, zero_f32, f32Value_posZero] at hlo
  refine ⟨finite_coef k hs.rate hrate0 htonefin hlo ?_, finite_coef k hs.rate hrate0 hhpfin ?_ ?_⟩
  · linarith
  · rw [hhp]
    positivity
  · rw [hhp]
    push_cast
    linarith

/-- Settles O32: the stages up to the read move the phases and WR_IDX; the sample read there is +0.0, and the
rest of the pipeline keeps that block. -/
theorem silenceIsFixed : Obligations.SilenceIsFixed := by
  intro s hs h1 hsilent
  have hcoef := hs.finite_coefs h1
  have hblock := hsilent.stepped_eq hs.config hs.block s.draws (fun k => (hcoef k).1) fun k => (hcoef k).2
  refine ⟨s.afterStep, exec_step hs.block.wrIdx, ?rsp, ?wrIdx, ?block⟩
  case rsp => exact congrArg some ((congrArg BlockState.yOut hblock).trans hsilent.yOut)
  case wrIdx => simpa using advanceIndex_toNat hs.config s.wrIdx
  case block =>
    rw [State.afterStep_toBlockState, stepped_wrIdx]
    exact hblock

end Sys2Proof.Machine

namespace Sys2Proof.Machine

/-! ### Whole-number bounds, as `Within` and as `AtMost` -/

theorem AtMost.mono {m n : Nat} {v : F32} (h : AtMost m v) (hmn : m ≤ n) : AtMost n v :=
  ⟨h.1, h.2.trans (by exact_mod_cast hmn)⟩

/-- Within a whole literal is at most that whole number. -/
theorem within_iff_atMost {m : Nat} {w v : F32} (hlit : f32Lit m 1 = w) (hm : m ≤ 2 ^ 24) :
    Within w v ↔ AtMost m v := by
  have hw : AtMost m w := AtMost.of_lit hlit hm
  constructor
  · exact fun h => AtMost.of_inRange h hw.neg hw
  · rintro ⟨hfin, habs⟩
    have hvalue : f32Value w = m := hlit ▸ (f32Lit_whole_exact hm).2
    have hwn := f32IsNaN_of_finite hw.1
    have hvn := f32IsNaN_of_finite hfin
    obtain ⟨hlo, hhi⟩ := abs_le.mp habs
    rw [← hvalue, f32Value_le_iff] at hhi
    rw [← hvalue, ← f32Value_neg, f32Value_le_iff] at hlo
    exact ⟨(f32Le_iff _ _).mpr ⟨by simpa using hwn, hvn, hlo⟩, (f32Le_iff _ _).mpr ⟨hvn, hwn, hhi⟩⟩

/-- NUM-ROUND-MONO: rounding does not carry an exact result above a finite value. -/
theorem PrimitiveResult.value_le {q : ℚ} {r w : F32} (h : PrimitiveResult q r) (hw : f32Finite w = true)
    (hq : q ≤ f32Value w) : f32Value r ≤ f32Value w := by
  have hmono := f32Units_ofRat_mono hq
  rw [f32Units_ofRat_f32Value hw, ← h.units] at hmono
  exact (f32Value_le_iff r w).mpr hmono

/-- The whole numbers up to 2^24 of either sign are finite values. -/
theorem exists_f32Value_eq_int {z : ℤ} (hz : z.natAbs ≤ 2 ^ 24) :
    ∃ w, f32Finite w = true ∧ f32Value w = z := by
  obtain ⟨hfin, hvalue⟩ := f32Lit_whole_exact hz
  rcases Int.natAbs_eq z with h | h
  · refine ⟨_, hfin, hvalue.trans ?_⟩
    rw [← Int.cast_natCast, ← h]
  · refine ⟨f32Neg (f32Lit z.natAbs 1), by simpa using hfin, ?_⟩
    rw [f32Value_neg, hvalue, ← Int.cast_natCast, ← Int.cast_neg, ← h]

/-- Rounding moves an exact result of whole-number size by less than 1: the whole numbers around it are
representable. -/
theorem PrimitiveResult.abs_sub_lt_one {q : ℚ} {r : F32} (h : PrimitiveResult q r) (hq : |q| ≤ 2 ^ 24) :
    |f32Value r - q| < 1 := by
  obtain ⟨hlo, hhi⟩ := abs_le.mp hq
  have hceil : ⌈q⌉ ≤ 2 ^ 24 := Int.ceil_le.mpr (by exact_mod_cast hhi)
  have hfloor : -2 ^ 24 ≤ ⌊q⌋ := Int.le_floor.mpr (by exact_mod_cast hlo)
  have hle : ⌊q⌋ ≤ ⌈q⌉ := Int.floor_le_ceil q
  obtain ⟨up, hupfin, hup⟩ := exists_f32Value_eq_int (z := ⌈q⌉) (by omega)
  obtain ⟨dn, hdnfin, hdn⟩ := exists_f32Value_eq_int (z := ⌊q⌋) (by omega)
  have hrup := h.value_le hupfin (hup.symm ▸ Int.le_ceil q)
  have hrdn := h.le_value hdnfin (hdn.symm ▸ Int.floor_le q)
  rw [hup] at hrup
  rw [hdn] at hrdn
  rw [abs_lt]
  constructor
  · linarith [Int.lt_floor_add_one q]
  · linarith [Int.ceil_lt_add_one q]

/-! ### The coefficients of the tone filter lie in [0, 1] (42_tone_filter_chain.md R116) -/

/-- A finite factor between 0 and 1. -/
def UnitFactor (g : F32) : Prop := f32Finite g = true ∧ 0 ≤ f32Value g ∧ f32Value g ≤ 1

theorem f32Value_one : f32Value 0x3F800000#32 = 1 := by
  rw [f32Value, f32Units_one]
  norm_num

/-- A factor between 0 and 1 moves a value towards zero and not across it. -/
theorem UnitFactor.mul_between {g d : F32} (hg : UnitFactor g) (hd : f32Finite d = true) (k : Nat) :
    (0 ≤ f32Value d → 0 ≤ f32Value (f32Mul k g d) ∧ f32Value (f32Mul k g d) ≤ f32Value d) ∧
    (f32Value d ≤ 0 → f32Value d ≤ f32Value (f32Mul k g d) ∧ f32Value (f32Mul k g d) ≤ 0) := by
  obtain ⟨hfin, h0, h1⟩ := hg
  have hzero : f32Units 0x00000000#32 = 0 := by decide
  rw [← f32Value_posZero, f32Value_le_iff, hzero] at h0
  rw [← f32Value_one, f32Value_le_iff, f32Units_one] at h1
  have hmul := f32Units_mul_of_le_one (k := k) hfin hd h0 h1
  rw [← f32Value_posZero]
  simpa only [f32Value_le_iff, hzero] using hmul

/-- The ratio of a value that is not negative to its sum with K159, which rounding does not carry below it. -/
theorem unitFactor_div_k159_add (k : Nat) {f : F32} (hf : AtMost 147 f) (hf0 : 0 ≤ f32Value f) :
    UnitFactor (f32Div k f (f32Add k 0x3E22D0E5#32 f)) := by
  have hk : f32Finite 0x3E22D0E5#32 = true := rfl
  have hk1 : AtMost 1 0x3E22D0E5#32 := Within.atMost_one (by unfold Within InRange; decide +kernel)
  have hk0 : 0 < f32Value 0x3E22D0E5#32 := by
    rw [← f32Value_posZero, f32Value_lt_iff]
    decide +kernel
  have hsum := PrimitiveResult.add k 0x3E22D0E5#32 f hk hf.1
  have hratio := hsum.le_value hf.1 (le_add_of_nonneg_left hk0.le)
  have hpos := hk0.trans_le (hsum.le_value hk (le_add_of_nonneg_right hf0))
  have hquot := PrimitiveResult.div k f _ hf.1 (hk1.add hf (k := k) (by decide)).1 hpos.ne'
  refine ⟨finite_div_k159_add k hf hf0, ?_, ?_⟩
  · rw [← f32Value_posZero]
    exact hquot.le_value rfl (f32Value_posZero.trans_le (div_nonneg hf0 hpos.le))
  · rw [← f32Value_one]
    exact hquot.value_le rfl (((div_le_one hpos).mpr hratio).trans_eq f32Value_one.symm)

theorem unitFactor_coef (k : Nat) {c : Config} {hz : F32} (hrate : f32Finite (sampleRate builtNum c) = true)
    (hrate0 : 0 < f32Value (sampleRate builtNum c)) (hfin : f32Finite hz = true) (h0 : 0 ≤ f32Value hz)
    (h : f32Value hz ≤ 147 * f32Value (sampleRate builtNum c)) : UnitFactor (coef (f32Num k) c hz) := by
  obtain ⟨hf, hf0⟩ := f32Div_cutoff_bounds k hrate hrate0 hfin h0 h
  rw [coef, k159_f32]
  exact unitFactor_div_k159_add k hf hf0

/-- At a rate of at least 1 Hz the coefficients of both stages lie in [0, 1] (log entry 20). -/
theorem ContractState.unitFactor_coefs {s : State} (hs : ContractState s) (k : Nat) :
    UnitFactor (coef (f32Num k) s.cfg s.toneHz) ∧ UnitFactor (gB (f32Num k) s.cfg) := by
  have hfs := hs.legal.rate
  obtain ⟨_, _, hrate⟩ := (f32Le_iff _ _).mp hs.rate
  rw [← f32Value_le_iff, f32Value_one] at hrate
  have hzero : zero builtNum = 0x00000000#32 := zero_f32 0
  have htone := hs.legal.block.toneHz
  obtain ⟨_, _, hlo⟩ := (f32Le_iff _ _).mp htone.1
  obtain ⟨_, _, hhi⟩ := (f32Le_iff _ _).mp (f32Le_trans htone.2 (f32Le_hzMax_sampleRate hfs))
  rw [hzero, ← f32Value_le_iff, f32Value_posZero] at hlo
  rw [← f32Value_le_iff] at hhi
  have htonefin := InRange.finite ⟨htone.1, f32Le_trans htone.2 (f32Le_hzMax_sampleRate hfs)⟩
    (by decide) hfs
  obtain ⟨hhpfin, hhp⟩ :
      f32Finite (hpHz (f32Num k)) = true ∧ f32Value (hpHz (f32Num k)) = (147 : Nat) :=
    f32Lit_whole_exact (by decide)
  have hrate0 : 0 < f32Value (sampleRate builtNum s.cfg) := by linarith
  constructor
  · exact unitFactor_coef k hfs hrate0 htonefin hlo (by linarith)
  · refine unitFactor_coef k hfs hrate0 hhpfin ?_ ?_ <;> rw [hhp]
    · positivity
    · push_cast
      linarith

/-! ### The bounds that a STEP keeps (60_exceptions.md R190; log entry 20) -/

/-- One pole moves its memory towards the input: up to the roundings it stays between the two, and 1 between the
input's bound and the memory's takes up those. -/
theorem onepole_memory_atMost (k : Nat) {M m : Nat} {y0 g x : F32} (hp : Bool) (hg : UnitFactor g)
    (hy : AtMost M y0) (hx : AtMost m x) (hmM : m < M) (hM : m + M ≤ 2 ^ 24) :
    AtMost M (onepole (f32Num k) y0 g x hp).1 := by
  have hdiff := hx.sub hy (k := k) hM
  have hsub := PrimitiveResult.sub k x y0 hx.1 hy.1
  have hsize : |f32Value x - f32Value y0| ≤ 2 ^ 24 :=
    (abs_sub _ _).trans ((add_le_add hx.2 hy.2).trans (by exact_mod_cast hM))
  obtain ⟨hround, hround'⟩ := abs_lt.mp (hsub.abs_sub_lt_one hsize)
  obtain ⟨hup, hdown⟩ := hg.mul_between hdiff.1 k
  obtain ⟨hx1, hx2⟩ := abs_le.mp hx.2
  obtain ⟨hy1, hy2⟩ := abs_le.mp hy.2
  have hmM' : (m : ℚ) + 1 ≤ M := by exact_mod_cast hmM
  have hmove : f32Finite (f32Mul k g (f32Sub k x y0)) = true := by
    refine ((PrimitiveResult.mul k g _ hg.1 hdiff.1).atMost hM ?_).1
    rw [abs_mul, abs_of_nonneg hg.2.1]
    exact (mul_le_of_le_one_left (abs_nonneg _) hg.2.2).trans hdiff.2
  refine (PrimitiveResult.add k y0 _ hy.1 hmove).atMost (by omega) (abs_le.mpr ?_)
  rcases le_total 0 (f32Value (f32Sub k x y0)) with h | h
  · obtain ⟨hlo, hhi⟩ := hup h
    constructor <;> linarith
  · obtain ⟨hlo, hhi⟩ := hdown h
    constructor <;> linarith

/-- The output of a stage is its memory, or that less the input. -/
theorem onepole_output_atMost (k : Nat) {M m : Nat} {y0 g x : F32} (hp : Bool) (hg : UnitFactor g)
    (hy : AtMost M y0) (hx : AtMost m x) (hmM : m < M) (hM : m + M ≤ 2 ^ 24) :
    AtMost (M + m) (onepole (f32Num k) y0 g x hp).2 := by
  have hmem := fun b => onepole_memory_atMost k b hg hy hx hmM hM
  cases hp with
  | false => exact (hmem false).mono (Nat.le_add_right M m)
  | true => exact (hmem true).sub hx (by omega)

/-- Whatever the roundings, the interpolation of four samples in [-1, 1] is at most 23. -/
theorem hermite_atMost (k : Nat) {xm1 x0 x1 x2 f : F32} (hm1 : AtMost 1 xm1) (h0 : AtMost 1 x0)
    (h1 : AtMost 1 x1) (h2 : AtMost 1 x2) (hf : AtMost 1 f) :
    AtMost 23 (hermite (f32Num k) xm1 x0 x1 x2 f) := by
  rw [hermite_f32]
  exact ((hermiteSlope_atMost k hm1 h0 h1 h2 hf).mul hf (by decide)).add h0 (by decide)

/-- 0.995 times at most 65536, rounded, is at most 65209. -/
theorem f32Mul_dcR_atMost (k : Nat) {y : F32} (hy : AtMost 65536 y) :
    AtMost 65209 (f32Mul k 0x3F7EB852#32 y) := by
  have hunits : f32Units 0x3F7EB852#32 = 16693330 * 2 ^ 125 := by decide +kernel
  have hvalue : f32Value 0x3F7EB852#32 = 16693330 / 2 ^ 24 := by
    rw [f32Value, hunits]
    norm_num
  refine (PrimitiveResult.mul k _ y rfl hy.1).atMost (by decide) ?_
  have habs := hy.2
  rw [abs_mul, hvalue, abs_of_pos (by norm_num)]
  push_cast at habs ⊢
  linarith

/-- The gate takes no draw. -/
theorem gatedInput_draw (k : Nat) (b : BlockState F32) : gatedInput (f32Num k) b = gatedInput builtNum b := rfl

/-- Neither does the gain of ROUTE. -/
theorem routeGain_draw (k : Nat) (b : BlockState F32) : routeGain (f32Num k) b = routeGain builtNum b := rfl

/-- DRIVE keeps an infinity. -/
theorem f32Mul_drive_of_isInf (k : Nat) {v : F32} (h : f32IsInf v = true) : f32Mul k 0x3FA66666#32 v = v := by
  rw [f32Mul, f32Product_of_inf (.inr h) rfl (f32IsZero_of_isInf h)]
  rcases (f32IsInf_iff v).mp h with rfl | rfl <;> exact orNaN_of_some rfl rfl

/-- DRIVE times a number may overflow, but is a number. -/
theorem f32IsNaN_mul_drive (k : Nat) {v : F32} (h : f32IsNaN v = false) :
    f32IsNaN (f32Mul k 0x3FA66666#32 v) = false := by
  rcases f32_class v with ⟨hfin, _, _⟩ | ⟨_, hinf, _⟩ | ⟨_, _, hnan⟩
  · exact f32IsNaN_mul rfl hfin
  · rwa [f32Mul_drive_of_isInf k hinf]
  · exact absurd (hnan.symm.trans h) (by decide)

/-- On finite operands the saturator gets a number. -/
theorem drivenSample_within (k : Nat) {b : BlockState F32}
    (hx : f32Finite (gatedInput builtNum b) = true) (hfb : f32Finite b.fb = true) :
    Within 0x3F800000#32 (drivenSample (f32Num k) b) := by
  have hsum : f32IsNaN (f32Add k (gatedInput builtNum b) b.fb) = false := by
    rw [f32Add_finite hx hfb]
    exact f32IsNaN_addFinite _ _
  rw [drivenSample_f32, gatedInput_draw]
  exact sat_within k (f32IsNaN_mul_drive k hsum)

section BoundedBlock

variable {c : Config} {b : BlockState F32} (hb : BoundedBlock b)
include hb

/-- FB and STATUS have no bound. -/
theorem BoundedBlock.withFbStatus (fb : F32) (status : BitVec 3) :
    BoundedBlock { b with fb := fb, status := status } :=
  ⟨hb.delay, hb.yOut, hb.taY0, hb.tbY0, hb.dcX1, hb.dcY1⟩

theorem BoundedBlock.raise (f : StatusBit) : BoundedBlock (b.raise f) :=
  hb.withFbStatus b.fb _

theorem BoundedBlock.route (k : Nat) : BoundedBlock (routeBlock (f32Num k) b) := by
  rw [routeBlock_eq]
  exact hb.withFbStatus _ _

/-- A WR writes none of the bounded registers. -/
theorem BoundedBlock.written {b' : BlockState F32} {reg : RegIdx} {data : Word}
    (hw : writeRegister c b reg data = some b') : BoundedBlock b' := by
  obtain ⟨hdl, _, hy, _, _, hta, htb, hx1, hy1⟩ := writeRegister_frame hw
  refine ⟨fun a => ?_, hy ▸ hb.yOut, hta ▸ hb.taY0, htb ▸ hb.tbY0, hx1 ▸ hb.dcX1, hy1 ▸ hb.dcY1⟩
  rw [delayWord, hdl]
  exact hb.delay a

end BoundedBlock

/-- The read of words in [-1, 1] at a legal delay. -/
theorem dlRead_atMost (k : Nat) {c : Config} {b : BlockState F32} (hc : c.legal = true)
    (hword : ∀ a, Within 0x3F800000#32 (delayWord b a)) (hcur : DelayInRange c b.curDelay) :
    AtMost 23 (dlRead (f32Num k) c b) := by
  have hone (a : Nat) : AtMost 1 (delayWord b a) := (hword a).atMost_one
  rw [dlRead_f32]
  exact hermite_atMost k (hone _) (hone _) (hone _) (hone _) (hcur.fraction_atMost hc k)

/-- A state within the contract in which a STEP finds finite operands. -/
structure StepReady (s : State) : Prop where
  state : ContractState s
  operands : StepOperandsFinite s

section StepReady

variable {s : State} (h : StepReady s)
include h

theorem StepReady.afterStep_legal : LegalState s.afterStep :=
  h.state.legal.exec (exec_step h.state.legal.block.wrIdx)

theorem StepReady.delay (a : Nat) : Within 0x3F800000#32 (delayWord s.afterStep.toBlockState a) := by
  rw [State.afterStep_toBlockState, delayWord_stepped h.state.legal.block]
  split
  · exact drivenSample_within _ h.operands.1 h.operands.2
  · exact h.state.bounded.delay a

theorem StepReady.sampleRead_atMost : AtMost 23 (sampleRead (drawsFrom s) s.cfg s.toBlockState) :=
  dlRead_atMost _ h.state.legal.config h.delay h.afterStep_legal.block.curDelay

theorem StepReady.stageA_atMost : AtMost 32 (stageA (drawsFrom s) s.cfg s.toBlockState).1 ∧
    AtMost 55 (stageA (drawsFrom s) s.cfg s.toBlockState).2 := by
  obtain ⟨hg, _⟩ := h.state.unitFactor_coefs (s.draws + 4)
  have hy := (within_iff_atMost (m := 32) (by decide +kernel) (by decide)).mp h.state.bounded.taY0
  exact ⟨onepole_memory_atMost _ _ hg hy h.sampleRead_atMost (by decide) (by decide),
    onepole_output_atMost _ _ hg hy h.sampleRead_atMost (by decide) (by decide)⟩

theorem StepReady.stageB_atMost : AtMost 64 (stageB (drawsFrom s) s.cfg s.toBlockState).1 ∧
    AtMost 119 (stageB (drawsFrom s) s.cfg s.toBlockState).2 := by
  obtain ⟨_, hg⟩ := h.state.unitFactor_coefs (s.draws + 5)
  obtain ⟨_, hx⟩ := h.stageA_atMost
  have hy := (within_iff_atMost (m := 64) (by decide +kernel) (by decide)).mp h.state.bounded.tbY0
  exact ⟨onepole_memory_atMost _ _ hg hy hx (by decide) (by decide),
    onepole_output_atMost _ _ hg hy hx (by decide) (by decide)⟩

/-- The difference is at most 119 + 128, and 247 + 65209 is below 65536. -/
theorem StepReady.dcY1_atMost : AtMost 65536 s.afterStep.dcY1 := by
  obtain ⟨_, hx⟩ := h.stageB_atMost
  have hx1 := (within_iff_atMost (m := 128) (by decide +kernel) (by decide)).mp h.state.bounded.dcX1
  have hy1 := (within_iff_atMost (m := 65536) (by decide +kernel) (by decide)).mp h.state.bounded.dcY1
  have hdiff := hx.sub hx1 (k := s.draws + 6) (by decide)
  have hsum := hdiff.add (f32Mul_dcR_atMost (s.draws + 6) hy1) (k := s.draws + 6) (by decide)
  rw [← dcR_f32 (s.draws + 6)] at hsum
  rw [State.afterStep_toBlockState, stepped_dcY1]
  exact hsum.mono (by decide)

theorem StepReady.yOut_within : Within 0x40000000#32 s.afterStep.yOut := by
  rw [State.afterStep_toBlockState, stepped_yOut]
  exact lim_within _ (f32IsNaN_of_finite h.dcY1_atMost.1)

theorem StepReady.bounded : BoundedBlock s.afterStep.toBlockState where
  delay := h.delay
  yOut := h.yOut_within
  taY0 := by
    rw [State.afterStep_toBlockState, stepped_taY0]
    exact (within_iff_atMost (by decide +kernel) (by decide)).mpr h.stageA_atMost.1
  tbY0 := by
    rw [State.afterStep_toBlockState, stepped_tbY0]
    exact (within_iff_atMost (by decide +kernel) (by decide)).mpr h.stageB_atMost.1
  dcX1 := by
    rw [State.afterStep_toBlockState, stepped_dcX1]
    exact (within_iff_atMost (m := 128) (by decide +kernel) (by decide)).mpr
      (h.stageB_atMost.2.mono (by decide))
  dcY1 := (within_iff_atMost (by decide +kernel) (by decide)).mpr h.dcY1_atMost

/-- All three values that R163 asks are finite. -/
theorem StepReady.status : s.afterStep.status = s.status := by
  rw [afterStep_status s (gatedInput_draw _ _)]
  exact if_pos ⟨h.operands.1, h.operands.2, h.yOut_within.finite rfl rfl⟩

/-- STEP keeps the contract. -/
theorem StepReady.afterStep_contract : ContractState s.afterStep :=
  ⟨h.afterStep_legal, h.state.rate, h.bounded⟩

end StepReady

/-- A state within the contract in which a ROUTE finds finite operands. -/
structure RouteReady (s : State) : Prop where
  state : ContractState s
  operands : RouteOperandsFinite s

/-- STEP writes neither REV_IN nor MODE, so it keeps ROUTE's operands. -/
theorem StepReady.routeReady {s : State} (h : StepReady s) (hr : RouteOperandsFinite s) :
    RouteReady s.afterStep := by
  have hcontrols := stepped_sameControls (drawsFrom s) s.cfg s.toBlockState
  refine ⟨h.afterStep_contract, fun hmode => ?_⟩
  rw [State.afterStep_toBlockState, hcontrols.revIn]
  exact hr (hcontrols.mode.symm.trans hmode)

/-- 2^126 times FB_MAX is a finite value, as patterns. -/
theorem f32Value_maxRevIn_mul_fbMax :
    f32Value 0x7E800000#32 * f32Value 0x3F99999A#32 = f32Value 0x7E99999A#32 := by
  have hrev : f32Units 0x7E800000#32 = 2 ^ 126 * 2 ^ 149 := by decide +kernel
  have hunits : f32Units 0x7E99999A#32 = 2 ^ 126 * f32Units 0x3F99999A#32 := by decide +kernel
  rw [f32Value, f32Value, f32Value, hrev, hunits]
  push_cast
  ring

/-- A product of bounded factors is bounded by the product of the bounds, where that is a value. -/
theorem Within.mul (k : Nat) {bx bg bz x y : F32} (hx : Within bx x) (hy : Within bg y)
    (hbx : f32Finite bx = true) (hbg : f32Finite bg = true) (hbz : f32Finite bz = true)
    (h : f32Value bx * f32Value bg = f32Value bz) : Within bz (f32Mul k x y) := by
  have hxf := hx.finite (by simpa using hbx) hbx
  have hyf := hy.finite (by simpa using hbg) hbg
  refine (PrimitiveResult.mul k x y hxf hyf).within hbz ?_
  rw [abs_mul, ← h]
  exact mul_le_mul hx.abs_value_le hy.abs_value_le (abs_nonneg _) ((abs_nonneg _).trans hx.abs_value_le)

section RouteReady

variable {s : State} (h : RouteReady s) (k : Nat)
include h

theorem RouteReady.gain_within : Within 0x3F99999A#32 (routeGain builtNum s.toBlockState) := by
  have hgain := h.state.legal.block.fbGain
  rw [builtNum_eq, zero_f32, fbMax_f32] at hgain
  exact (routeGain_inRange hgain).within

/-- Outside Reverse the source is Y_OUT, in [-2, 2] (45_feedback_router.md R150). -/
theorem RouteReady.fb_within (hmode : s.mode ≠ .reverse) :
    f32Finite (routeSource s.toBlockState) = true ∧
    Within 0x4019999A#32 (f32Mul k (routeSource s.toBlockState) (routeGain builtNum s.toBlockState)) := by
  rw [routeSource_of_not_reverse hmode]
  have hy := h.state.bounded.yOut
  exact ⟨hy.finite rfl rfl, f32Mul_within_feedback k hy h.gain_within⟩

/-- In Reverse the source is REV_IN, bounded by premise P. -/
theorem RouteReady.finite : f32Finite (routeSource s.toBlockState) = true ∧
    f32Finite (f32Mul k (routeSource s.toBlockState) (routeGain builtNum s.toBlockState)) = true := by
  by_cases hmode : s.mode = .reverse
  · have hsource : routeSource s.toBlockState = s.revIn := by rw [routeSource, hmode]
    have hrev := h.operands hmode
    have hfb := Within.mul k hrev h.gain_within rfl rfl rfl f32Value_maxRevIn_mul_fbMax
    rw [hsource]
    exact ⟨hrev.finite rfl rfl, hfb.finite rfl rfl⟩
  · obtain ⟨hsource, hfb⟩ := h.fb_within k hmode
    exact ⟨hsource, hfb.finite rfl rfl⟩

theorem RouteReady.routeState_fb : f32Finite (routeState s).fb = true ∧
    (s.mode ≠ .reverse → Within 0x4019999A#32 (routeState s).fb) := by
  rw [routeState_toBlockState, routeBlock_fb]
  exact ⟨(h.finite s.draws).2, fun hmode => (h.fb_within s.draws hmode).2⟩

theorem RouteReady.routeState_status : (routeState s).status = s.status := by
  obtain ⟨hsource, hfb⟩ := h.finite s.draws
  rw [routeState_toBlockState, routeBlock_status_f32]
  exact routeStatus_of_finite hsource hfb _

end RouteReady

/-- What the contract asks of a command's result: its new registers are bounded, STATUS.NONFINITE is not newly
set, and FB is bounded where ROUTE wrote it. -/
structure KeepsContract (i : Instr) (s t : State) : Prop where
  bounded : BoundedBlock t.toBlockState
  status : flagIsSet .nonfinite s.status = false → flagIsSet .nonfinite t.status = false
  feedback : i = .route ∨ i = .tick →
    f32Finite t.fb = true ∧ (s.mode ≠ .reverse → Within 0x4019999A#32 t.fb)

/-- NONFINITE is a bit of its own (10_state.md R28). -/
theorem flagIsSet_nonfinite_raise_badreg (v : BitVec 3) :
    flagIsSet .nonfinite (raiseFlag .badreg v) = flagIsSet .nonfinite v := by
  revert v
  decide

/-- A WR or RD that only sets BADREG. -/
theorem KeepsContract.of_badreg {i : Instr} {s t : State} (hb : BoundedBlock s.toBlockState)
    (hi : ¬ (i = .route ∨ i = .tick)) (h : t.toBlockState = s.toBlockState.raise .badreg) :
    KeepsContract i s t := by
  refine ⟨h ▸ hb.raise _, ?_, fun hc => absurd hc hi⟩
  rw [h, BlockState.raise_status, flagIsSet_nonfinite_raise_badreg]
  exact id

theorem exec_keepsContract {i : Instr} {s t : State} (hs : ContractState s) (hi : OperandsFinite i s)
    (h : exec i s = .next t) : KeepsContract i s t := by
  have ha := exec_blockAfter h
  have hb := hs.bounded
  cases i with
  | nop => cases h; exact ⟨hb, id, by simp⟩
  | wr reg data =>
    rcases ha with hw | e
    · obtain ⟨_, hstatus, _⟩ := writeRegister_frame hw
      exact ⟨hb.written hw, hstatus ▸ id, by simp⟩
    · exact .of_badreg hb (by simp) e
  | rd reg =>
    rcases ha with e | e
    · exact ⟨e ▸ hb, e ▸ id, by simp⟩
    · exact .of_badreg hb (by simp) e
  | step =>
    have hready : StepReady s := ⟨hs, hi⟩
    cases (exec_step hs.legal.block.wrIdx).symm.trans h
    exact ⟨hready.bounded, hready.status ▸ id, by simp⟩
  | route =>
    have hready : RouteReady s := ⟨hs, hi⟩
    cases h
    exact ⟨hb.route _, hready.routeState_status ▸ id, fun _ => hready.routeState_fb⟩
  | tick =>
    have hstep : StepReady s := ⟨hs, hi.1⟩
    have hroute := hstep.routeReady hi.2
    have hmode : s.afterStep.mode = s.mode := (stepped_sameControls _ _ _).mode
    cases (exec_tick hs.legal.block.wrIdx).symm.trans h
    exact ⟨hstep.bounded.route _, (hroute.routeState_status.trans hstep.status) ▸ id,
      fun _ => hmode ▸ hroute.routeState_fb⟩
  | init =>
    cases h
    exact ⟨BoundedBlock.initial _, fun _ => by simp [BlockState.initial, flagIsSet], by simp⟩

/-- Settles O60: the command completes since its state is legal, and each command keeps the bounds. -/
theorem contractIsInvariant : Obligations.ContractIsInvariant := by
  intro i s hs hi
  obtain ⟨t, ht⟩ := exec_completes (i := i) fun _ => hs.legal.block.wrIdx
  obtain ⟨hcfg, _, _⟩ := exec_eq_next ht
  obtain ⟨hbounded, hstatus, hfeedback⟩ := exec_keepsContract hs hi ht
  exact ⟨t, ht, ⟨hs.legal.exec ht, hcfg ▸ hs.rate, hbounded⟩, hstatus, hfeedback⟩

end Sys2Proof.Machine

namespace Sys2Proof.Machine

/-! ### NaNs through the primitives and the filters (40_numerics.md R79, 60_exceptions.md R189) -/

theorem f32Add_of_nan (k : Nat) {a b : F32} (h : f32IsNaN a = true ∨ f32IsNaN b = true) :
    IsQuietNaN (f32Add k a b) :=
  orNaN_of_nan h

theorem f32Sub_of_nan (k : Nat) {a b : F32} (h : f32IsNaN a = true ∨ f32IsNaN b = true) :
    IsQuietNaN (f32Sub k a b) :=
  orNaN_of_nan h

theorem f32Mul_of_nan (k : Nat) {a b : F32} (h : f32IsNaN a = true ∨ f32IsNaN b = true) :
    IsQuietNaN (f32Mul k a b) :=
  orNaN_of_nan h

theorem IsQuietNaN.not_finite {a : F32} (h : IsQuietNaN a) : f32Finite a = false :=
  f32Finite_of_isNaN h.isNaN

/-- A NaN in the memory or in the input of a stage is in its memory and its output after it. -/
theorem onepole_of_nan (k : Nat) {y0 x : F32} (g : F32) (hp : Bool)
    (h : f32IsNaN y0 = true ∨ f32IsNaN x = true) :
    IsQuietNaN (onepole (f32Num k) y0 g x hp).1 ∧ IsQuietNaN (onepole (f32Num k) y0 g x hp).2 := by
  have hmove : IsQuietNaN (f32Mul k g (f32Sub k x y0)) := f32Mul_of_nan k (.inr (f32Sub_of_nan k h.symm).isNaN)
  have hmem : IsQuietNaN (f32Add k y0 (f32Mul k g (f32Sub k x y0))) := f32Add_of_nan k (.inr hmove.isNaN)
  cases hp with
  | false => exact ⟨hmem, hmem⟩
  | true => exact ⟨hmem, f32Sub_of_nan k (.inl hmem.isNaN)⟩

section nan

variable (s : State)

theorem stageA_of_nan (h : f32IsNaN s.taY0 = true) :
    IsQuietNaN (stageA (drawsFrom s) s.cfg s.toBlockState).1 ∧
    IsQuietNaN (stageA (drawsFrom s) s.cfg s.toBlockState).2 :=
  onepole_of_nan _ _ _ (.inl h)

theorem stageB_of_nan (h : f32IsNaN s.taY0 = true ∨ f32IsNaN s.tbY0 = true) :
    IsQuietNaN (stageB (drawsFrom s) s.cfg s.toBlockState).1 ∧
    IsQuietNaN (stageB (drawsFrom s) s.cfg s.toBlockState).2 := by
  rcases h with h | h
  · exact onepole_of_nan _ _ _ (.inr (stageA_of_nan s h).2.isNaN)
  · exact onepole_of_nan _ _ _ (.inl h)

/-- The DC blocker sums its input, DC_X1 and DC_Y1, so it hands on a NaN of any filter memory. -/
theorem afterStep_dcY1_of_nan (h : f32IsNaN s.taY0 = true ∨ f32IsNaN s.tbY0 = true ∨ f32IsNaN s.dcX1 = true ∨
    f32IsNaN s.dcY1 = true) : IsQuietNaN s.afterStep.dcY1 := by
  rw [State.afterStep_toBlockState, stepped_dcY1]
  rcases h with h | h | h | h
  · exact f32Add_of_nan _ (.inl (f32Sub_of_nan _ (.inl (stageB_of_nan s (.inl h)).2.isNaN)).isNaN)
  · exact f32Add_of_nan _ (.inl (f32Sub_of_nan _ (.inl (stageB_of_nan s (.inr h)).2.isNaN)).isNaN)
  · exact f32Add_of_nan _ (.inl (f32Sub_of_nan _ (.inr h)).isNaN)
  · exact f32Add_of_nan _ (.inr (f32Mul_of_nan _ (.inr h)).isNaN)

/-- The limiter hands on a NaN as it is. -/
theorem afterStep_yOut_of_nan (h : IsQuietNaN s.afterStep.dcY1) : IsQuietNaN s.afterStep.yOut := by
  rw [State.afterStep_toBlockState] at h ⊢
  rw [stepped_yOut]
  exact (lim_of_nan _ h.isNaN).symm ▸ h

/-- R163: an input, FB or result that is not finite sets the flag. -/
theorem afterStep_status_of_not_finite {x : F32} (hx : gatedInput (f32Num (s.draws + 7)) s.toBlockState = x)
    (h : f32Finite x = false ∨ f32Finite s.afterStep.yOut = false) :
    s.afterStep.status = raiseFlag .nonfinite s.status := by
  rw [afterStep_status s hx]
  refine if_neg ?_
  rintro ⟨hxf, _, hyf⟩
  rcases h with h | h
  · exact absurd (hxf.symm.trans h) (by decide)
  · exact absurd (hyf.symm.trans h) (by decide)

/-- R149: outside Reverse ROUTE multiplies Y_OUT, and a NaN there reaches FB and STATUS. -/
theorem routeState_of_nan (hmode : s.mode ≠ .reverse) (h : IsQuietNaN s.yOut) :
    IsQuietNaN (routeState s).fb ∧ (routeState s).status = raiseFlag .nonfinite s.status := by
  have hsource := routeSource_of_not_reverse hmode
  rw [routeState_toBlockState, routeBlock_fb, routeBlock_status_f32, hsource, routeStatus, h.not_finite]
  exact ⟨f32Mul_of_nan _ (.inl h.isNaN), if_neg (by simp)⟩

end nan

/-- Settles O33: stage by stage from TA_Y0 to Y_OUT, and by ROUTE to FB, where the flag is set already. -/
theorem naNPersists : Obligations.NaNPersists := by
  intro s hidx
  refine ⟨_, _, exec_step hidx, exec_tick hidx, fun hta => ?stageA, fun htb => ?stageB, fun h => ?output⟩
  case stageA =>
    obtain ⟨hmemB, houtB⟩ := stageB_of_nan s (.inl hta)
    rw [State.afterStep_toBlockState, stepped_taY0, stepped_tbY0, stepped_dcX1]
    exact ⟨(stageA_of_nan s hta).1, hmemB, houtB⟩
  case stageB =>
    rw [State.afterStep_toBlockState, stepped_tbY0, stepped_dcX1]
    exact stageB_of_nan s (.inr htb)
  case output =>
    have hdc := afterStep_dcY1_of_nan s h
    have hy := afterStep_yOut_of_nan s hdc
    have hstatus := afterStep_status_of_not_finite s rfl (.inr hy.not_finite)
    refine ⟨hdc, hy, hstatus, fun hmode => ?_⟩
    have hkeeps : s.afterStep.mode = s.mode := (stepped_sameControls _ _ _).mode
    obtain ⟨hfb, hroute⟩ := routeState_of_nan s.afterStep (hkeeps ▸ hmode) hy
    rw [hstatus, raiseFlag_idem] at hroute
    exact ⟨hfb, hroute⟩

/-! ### An input that is not finite (60_exceptions.md R189, 46_tape_head_step.md R159) -/

theorem f32Add_of_inf_left (k : Nat) {a b : F32} (ha : f32IsInf a = true) (hb : f32Finite b = true) :
    f32Add k a b = a := by
  rw [f32Add, f32Sum_of_inf_left ha (f32IsInf_of_finite hb)]
  exact orNaN_of_some (f32IsNaN_of_isInf ha) (f32IsNaN_of_finite hb)

section gateOpen

variable {b : BlockState F32} (hmode : b.mode ≠ .freeze) (k : Nat)
include hmode

theorem gatedInput_of_not_freeze : gatedInput (f32Num k) b = b.xIn :=
  gatedInput_f32 k (fun h => absurd h hmode) fun _ => rfl

/-- DRIVE keeps the infinity, and the saturator takes it to its edge. -/
theorem drivenSample_of_inf (hx : f32IsInf b.xIn = true) (hfb : f32Finite b.fb = true) :
    drivenSample (f32Num k) b = sat (f32Num k) b.xIn := by
  rw [drivenSample_f32, gatedInput_of_not_freeze hmode, f32Add_of_inf_left k hx hfb, f32Mul_drive_of_isInf k hx]

theorem drivenSample_of_nan (hx : f32IsNaN b.xIn = true) : IsQuietNaN (drivenSample (f32Num k) b) := by
  rw [drivenSample_f32, gatedInput_of_not_freeze hmode]
  exact sat_of_nan k (f32Mul_of_nan k (.inr (f32Add_of_nan k (.inl hx)).isNaN)).isNaN

end gateOpen

/-- Settles O34: the stored word is the saturator's answer, and the gated input alone sets the flag. -/
theorem nonfiniteInput : Obligations.NonfiniteInput := by
  intro s _ hidx hmem hmode
  have hstatus (h : f32Finite s.xIn = false) : s.afterStep.status = raiseFlag .nonfinite s.status :=
    afterStep_status_of_not_finite s (gatedInput_of_not_freeze hmode _) (.inl h)
  have hword := delayWord_stepped_written hmem
  refine ⟨_, exec_step hidx, fun hx hfb => ⟨?_, hstatus (hx ▸ rfl)⟩,
    fun hx hfb => ⟨?_, hstatus (hx ▸ rfl)⟩,
    fun hx => ⟨?_, hstatus (f32Finite_of_isNaN hx)⟩⟩ <;> rw [State.afterStep_toBlockState, hword]
  · rw [drivenSample_of_inf hmode _ (hx ▸ rfl) hfb, hx]
    exact sat_of_edge_le _ (by decide +kernel)
  · rw [drivenSample_of_inf hmode _ (hx ▸ rfl) hfb, hx]
    exact sat_of_le_neg_edge _ (by decide +kernel)
  · exact drivenSample_of_nan hmode _ hx

/-! ### A legal state never stops (60_exceptions.md R185) -/

/-- What waits at the port is in no clause of legality. -/
theorem LegalState.withPort {s : State} (h : LegalState s) (events : List PortEvent) :
    LegalState (s.withPort events) :=
  ⟨h.config, h.rate, h.block⟩

/-- Its configuration is not refused, and its WR_IDX faults no STEP. -/
theorem LegalState.step_completes {s : State} (h : LegalState s) : ∃ t, step s = .next t := by
  obtain ⟨hc, _⟩ | ⟨_, c, rest, i, _, _, he⟩ | ⟨_, hnext⟩ := step_cases s
  · exact absurd (hc.symm.trans h.config) (by decide)
  · obtain ⟨t, ht⟩ := exec_completes (i := i) (s := s.withPort rest) fun _ => h.block.wrIdx
    exact ⟨t, he.trans ht⟩
  · exact hnext

theorem LegalState.runSteps_completes (k : Nat) {s : State} (h : LegalState s) :
    ∃ t, runSteps k s = .next t ∧ LegalState t := by
  induction k generalizing s with
  | zero => exact ⟨s, rfl, h⟩
  | succ k ih =>
    obtain ⟨u, hu⟩ := h.step_completes
    obtain ⟨t, ht, hlegal⟩ := ih (legalStateIsInvariant s u h hu)
    exact ⟨t, by rw [runSteps, hu]; exact ht, hlegal⟩

/-- Settles O59: a step completes and keeps legality, and so by induction does a run. -/
theorem legalStateNeverStops : Obligations.LegalStateNeverStops :=
  ⟨fun _ => LegalState.step_completes, fun s events k h => (h.withPort (s.port ++ events)).runSteps_completes k⟩

end Sys2Proof.Machine

namespace Sys2Proof.Machine

/-! ### WR (47_host_access.md R171 to R173, R177) -/

/-- A WR that stores nothing sets STATUS.BADREG and answers 0. -/
theorem exec_wr_ignored {s : State} {reg : RegIdx} {data : Word}
    (h : writeRegister s.cfg s.toBlockState reg data = none) :
    exec (.wr reg data) s =
      .next { s with status := s.status ||| 0b100#3, rsp := some 0x00000000#32 } :=
  exec_wr_of_none h

/-- Settles O13: each of the seven stores the data. -/
theorem wrStoresPlainRegisters : Obligations.WrStoresPlainRegisters := fun _ _ =>
  ⟨exec_wr_of_some rfl, exec_wr_of_some rfl, exec_wr_of_some rfl, exec_wr_of_some rfl, exec_wr_of_some rfl,
    exec_wr_of_some rfl, exec_wr_of_some rfl⟩

/-- `clampN` legalises (00_scope.md R8): a NaN is not at or above the lower bound. -/
theorem clampN_legalised (k : Nat) (lo hi d : F32) : Legalised lo hi d (clampN (f32Num k) d lo hi) where
  below := clampN_of_not_le
  above hlo hhi := by rw [clampN_of_le hlo, if_pos hhi]
  inside := clampN_of_inRange k

/-- Settles O14: four of the registers are clamped, each between its bounds as patterns, and FILT_CFG is cut. -/
theorem wrLegalises : Obligations.WrLegalises := by
  intro s d
  refine ⟨⟨legalDelayTarget builtNum s.cfg d, exec_wr_of_some rfl, ?delay⟩,
    ⟨legalToneHz builtNum s.cfg d, exec_wr_of_some rfl, ?tone⟩,
    ⟨legalFbGain builtNum d, exec_wr_of_some rfl, ?gain⟩,
    ⟨legalFlutDepth builtNum d, exec_wr_of_some rfl, ?depth⟩, exec_wr_of_some rfl⟩
  case delay =>
    rw [legalDelayTarget, builtNum_eq, dLo_f32]
    exact clampN_legalised 0 _ _ d
  case tone =>
    rw [legalToneHz, hzMax, builtNum_eq, zero_f32, fMax_f32]
    exact clampN_legalised 0 _ _ d
  case gain =>
    rw [legalFbGain, builtNum_eq, zero_f32, fbMax_f32]
    exact clampN_legalised 0 _ _ d
  case depth =>
    rw [legalFlutDepth, builtNum_eq, zero_f32, flutMax_f32]
    exact clampN_legalised 0 _ _ d

/-- All 32 bits of the data are compared (R173). -/
theorem modeOfWord_eq_none {d : Word} (h0 : d ≠ 0#32) (h1 : d ≠ 1#32) (h2 : d ≠ 2#32) :
    modeOfWord d = none := by
  rw [modeOfWord, if_neg h0, if_neg h1, if_neg h2]

theorem writeRegister_mode (c : Config) (b : BlockState F32) (d : Word) :
    writeRegister c b 0x07#8 d = (modeOfWord d).map fun m => { b with mode := m } := rfl

/-- Settles O15: the data names a mode, or the WR is ignored. -/
theorem wrMode : Obligations.WrMode := fun _ =>
  ⟨exec_wr_of_some rfl, exec_wr_of_some rfl, exec_wr_of_some rfl, fun d h0 h1 h2 =>
    exec_wr_ignored (by rw [writeRegister_mode, modeOfWord_eq_none h0 h1 h2, Option.map_none])⟩

theorem writeRegister_eq_none {c : Config} {b : BlockState F32} {reg : RegIdx} {data : Word}
    (h : ReadOnlyIndex reg ∨ UnmappedIndex reg) : writeRegister c b reg data = none :=
  writeRegisterAs_eq_none ((readOnly_or_unmapped_iff reg).mp h)

/-- Settles O16: no index above 0x0C is written, and the decoder asks nothing of it. -/
theorem wrIgnored : Obligations.WrIgnored :=
  ⟨fun _ reg d h => ⟨decode_encode (.wr reg d),
    exec_wr_ignored (writeRegister_eq_none h)⟩,
    decode_encode (.wr 0x11#8 0#32)⟩

/-- A WR changes what no other index reads. -/
theorem readRegister_written {c : Config} {b b' : BlockState F32} {reg r : RegIdx} {data : Word}
    (h : writeRegister c b reg data = some b') (hr : r ≠ reg) : readRegister b' r = readRegister b r := by
  have hn : r.toNat ≠ reg.toNat := fun e => hr (BitVec.eq_of_toNat_eq e)
  unfold writeRegister writeRegisterAs at h
  unfold readRegister readRegisterAs
  generalize r.toNat = i at hn ⊢
  -- The other indices read fields that are not updated; the index written is excluded by `hn`.
  split at h
  case h_8 =>
    obtain ⟨m, _, rfl⟩ := Option.map_eq_some_iff.mp h
    split <;> try rfl
    omega
  case h_14 => cases h
  all_goals
    cases h
    split <;> try rfl
    omega

/-- Settles O18: a WR stores one register, or sets STATUS.BADREG alone. -/
theorem wrFrame : Obligations.WrFrame := by
  intro s reg d
  cases hw : writeRegister s.cfg s.toBlockState reg d with
  | some b =>
    obtain ⟨hdl, _⟩ := writeRegister_frame hw
    refine ⟨_, exec_wr_of_some hw, fun r hr _ => readRegister_written hw hr, fun a => ?_, fun hro _ => ?_⟩
    · exact congrArg (Memory.read (zero builtNum) · a) hdl
    · exact absurd ((writeRegister_eq_none (.inl hro)).symm.trans hw) (Option.some_ne_none b).symm
  | none =>
    exact ⟨_, exec_wr_of_none hw, fun r _ hst => readRegister_withStatus s.toBlockState hst _, fun _ => rfl,
      fun _ hst => readRegister_withStatus s.toBlockState hst _⟩

/-! ### RD (47_host_access.md R174, R175) -/

/-- A RD word is legal exactly when its data is 0. -/
theorem decode_joinFields_rd (reg : RegIdx) (d : Word) : decode (joinFields 0x02#8 reg d) =
    if d = 0#32 then .ok (.rd reg) else .error .readDataNotZero := by
  rw [decode, Laws.FieldsOfWord.split_join]
  by_cases hd : d = 0#32 <;> simp [decodeFields, illegalReason, hd]

theorem readRegister_mode (b : BlockState F32) : readRegister b 0x07#8 = some (modeWord b.mode) := rfl

theorem exec_rd_mode {s : State} {m : Mode} (h : s.mode = m) :
    exec (.rd 0x07#8) s = .next { s with rsp := some (modeWord m) } :=
  exec_rd_of_some (by rw [readRegister_mode, h])

/-- Settles O17: each mapped index by `exec_rd_of_some`, each unmapped one by `exec_rd_of_none`. -/
theorem rdAnswersRegister : Obligations.RdAnswersRegister := by
  refine ⟨fun s => ?mapped, fun s reg h => ?unmapped, decode_joinFields_rd, by decide, by decide, ?reset⟩
  case mapped =>
    refine ⟨?_, ?_, ?_, ?_, ?_, ?_, ?_, exec_rd_mode, exec_rd_mode, exec_rd_mode, ?_, ?_, ?_, ?_, ?_, ?_, ?_,
      ?_, ?_, ?_, ?_, ?_, ?_, ?_⟩ <;> exact exec_rd_of_some rfl
  case unmapped => exact exec_rd_of_none (readRegisterAs_eq_none h)
  case reset =>
    obtain ⟨_, _, _, hcur, _⟩ := resetValues
    exact exec_rd_of_some (congrArg some hcur)

/-! ### NOP and INIT (47_host_access.md R170, R176) -/

/-- Settles O12: the text and the word are computed, and the arm of NOP only answers. -/
theorem nopDoesNothing : Obligations.NopDoesNothing :=
  ⟨by decide, decode_encode .nop, rfl, fun _ => rfl⟩

/-- Settles O19, by the reset block of R35. -/
theorem initResets : Obligations.InitResets := fun _ hc =>
  ⟨_, rfl, isResetBlock_initial hc, rfl, rfl, rfl, rfl⟩

end Sys2Proof.Machine
